-- ==== Sys2Proof/Word.lean ====
section
/-! DEFINITION. The word types of the block (00_scope.md R9, R10; 30_encoding.md R80). -/

namespace Sys2Proof

/-- A 64-bit value: `DATA`, `VAL` and `RESULT` (30_encoding.md R80). -/
abbrev Word := BitVec 64

/-- The 8-byte payload as the one integer `P`, byte 0 in bits 7..0 (20_memory.md R50). -/
abbrev Payload := BitVec 64

/-- A `W`-bit timestamp, held in a 64-bit word whose bits from `W` up are 0 (00_scope.md R8: `W ≤ 64`).
DESIGN CHOICE, log entry 5. -/
abbrev Timestamp := BitVec 64

/-- A frame identifier: 11 bits, `0..2047` (30_encoding.md R70). -/
abbrev Identifier := BitVec 11

end Sys2Proof
end

