-- ==== Sys2Proof/Config.lean ====
section
/-! DEFINITION. The configuration: the parameters a model takes as arguments (00_scope.md R8; 10_state.md R36).
They are fixed for the block's lifetime, and no transaction reads them as data or writes them. -/

namespace Sys2Proof

/-- The four tracked signals, in the spec's order (00_scope.md R14). -/
inductive Signal where
  | lamp | lock | park | batt
deriving DecidableEq, Repr

/-- Whether a never-updated signal can count as fresh (00_scope.md R8, 92_eei_decisions.md D6). -/
inductive InitFreshness where
  | neverFresh | zeroTimestamp
deriving DecidableEq, Repr

/-- What counts as the activation rule's rising edge (00_scope.md R8, 92_eei_decisions.md D9). -/
inductive RearmPolicy where
  | edge | level
deriving DecidableEq, Repr

/-- How "bit position plus width exceeds 64" is read (00_scope.md R8, 92_eei_decisions.md D11). -/
inductive ExtractRange where
  | lowBit | msbPlusWidth
deriving DecidableEq, Repr

/-- The parameters of 00_scope.md R8. Every value is open in the model: a claim about every state is a claim about
every configuration (log entry 1). Identifiers are 11-bit and policies take listed values by their types, which is
part of the admission of 70_reset_and_hazards.md R234 (log entry 6). -/
structure Config where
  /-- `W`. -/
  tsWidth : Nat
  /-- `READINESS_TIMEOUT`. -/
  readinessTimeout : Nat
  /-- `FIXED_DURATION`. -/
  fixedDuration : Nat
  /-- `ID_LAMP`. -/
  idLamp : Identifier
  /-- `ID_LOCK`. -/
  idLock : Identifier
  /-- `ID_PARK`. -/
  idPark : Identifier
  /-- `ID_BATT`. -/
  idBatt : Identifier
  /-- `INIT_FRESHNESS`. -/
  initFreshness : InitFreshness
  /-- `REARM_POLICY`. -/
  rearmPolicy : RearmPolicy
  /-- `EXTRACT_RANGE`. -/
  extractRange : ExtractRange
deriving DecidableEq, Repr

/-- `ID_k` (00_scope.md R14). -/
def Config.idOf (c : Config) : Signal → Identifier
  | .lamp => c.idLamp
  | .lock => c.idLock
  | .park => c.idPark
  | .batt => c.idBatt

/-- The example configuration `EX` of 95_test_vectors.md: the spec's own example numbers, not the vehicle's.
`State.reset` carries it. DESIGN CHOICE, log entry 2. -/
def Config.ex : Config where
  tsWidth := 32
  readinessTimeout := 1000
  fixedDuration := 500
  idLamp := 0x010
  idLock := 0x011
  idPark := 0x012
  idBatt := 0x013
  initFreshness := .neverFresh
  rearmPolicy := .edge
  extractRange := .lowBit

end Sys2Proof
end

