-- ==== Sys2Proof/Syntax.lean ====
section
/-! DEFINITION. The formats the block decodes: the transaction on its buses, the frame, the field descriptor, the
parsed message result, and the instruction, one constructor per row of spec/opcode_table.json. -/

namespace Sys2Proof

/-- One transaction as the host presents it: the value of every operand bus (30_encoding.md R80). Of `ts` and `now` the
low `W` bits are the bus; the bits above do not exist on the port (log entry 5). -/
structure Transaction where
  op   : BitVec 4
  id   : Identifier
  len  : BitVec 4
  data : Payload
  ts   : Timestamp
  now  : Timestamp
  /-- Electrical level of the button: `false` = low = pressed (43_actuation.md R171). -/
  btnN : Bool
  msb  : BitVec 8
  wid  : BitVec 8
  val  : Word
  addr : BitVec 8
deriving DecidableEq, Repr

/-- The frame record `(identifier, length, payload, received_at)`; a length is `0..8` by its type (30_encoding.md R70). -/
structure Frame where
  identifier : Identifier
  length     : Fin 9
  payload    : Payload
  receivedAt : Timestamp
deriving DecidableEq, Repr

/-- A signal field descriptor `(msb, w)` (30_encoding.md R72). -/
structure Descriptor where
  msb   : Nat
  width : Nat
deriving DecidableEq, Repr

/-- A parsed message result (41_frame_parsers.md R121) with a `w`-bit value. -/
structure ParseResult (w : Nat) where
  valid : Bool
  value : BitVec w
deriving DecidableEq, Repr

/-- The instructions: one constructor per row of spec/opcode_table.json, with the operands its format reads
(30_encoding.md R81, R83). Of a `FRAME.k` row the identifier is the row itself. -/
inductive Instr where
  /-- `FRAME.LAMP` (41_frame_parsers.md R127). -/
  | frameLamp (len : Fin 9) (data : Payload) (ts : Timestamp)
  /-- `FRAME.LOCK` (41_frame_parsers.md R128). -/
  | frameLock (len : Fin 9) (data : Payload) (ts : Timestamp)
  /-- `FRAME.PARK` (41_frame_parsers.md R129). -/
  | framePark (len : Fin 9) (data : Payload) (ts : Timestamp)
  /-- `FRAME.BATT` (41_frame_parsers.md R130). -/
  | frameBatt (len : Fin 9) (data : Payload) (ts : Timestamp)
  /-- `FRAME.OTHER` (41_frame_parsers.md R131). -/
  | frameOther (id : Identifier) (len : Fin 9) (data : Payload) (ts : Timestamp)
  /-- `READY` (42_aggregator.md R149). -/
  | ready (now : Timestamp)
  /-- `ACT` (43_actuation.md R170). -/
  | act (now : Timestamp) (btnN : Bool)
  /-- `EXTRACT` (40_codec.md R101). -/
  | extract (data : Payload) (msb wid : BitVec 8)
  /-- `SET` (40_codec.md R102). -/
  | set (data : Payload) (msb wid : BitVec 8) (val : Word)
  /-- `READ` (44_observability.md R190). -/
  | read (addr : BitVec 8)
  /-- `RESET` (70_reset_and_hazards.md R230). -/
  | reset
deriving DecidableEq, Repr

end Sys2Proof
end

