-- ==== Sys2Proof/Machine/State.lean ====
section
/-! DEFINITION. The state of the block (10_state.md R20 to R40), the reasons a step can stop, and the state after reset. -/

namespace Sys2Proof.Machine

/-- The registers of one tracked signal with a `w`-bit raw code. `none` is the spec's `unknown` (10_state.md R20). -/
structure SignalRegs (w : Nat) where
  /-- `cur_k` (10_state.md R20). -/
  cur  : Option (BitVec w)
  /-- `prev_k` (10_state.md R21). -/
  prev : Option (BitVec w)
  /-- `last_k` (10_state.md R22). -/
  last : Timestamp
  /-- `seen_k` (10_state.md R23). -/
  seen : Bool
deriving DecidableEq, Repr

/-- The Vehicle State, owned by the aggregator (10_state.md R20 to R25). -/
structure VehicleState where
  lamp : SignalRegs 2
  lock : SignalRegs 2
  park : SignalRegs 4
  batt : SignalRegs 7
  /-- `bedlight_on` (10_state.md R24). -/
  bedlightOn  : Bool
  /-- `is_unlocked` (10_state.md R24). -/
  isUnlocked  : Bool
  /-- `is_parked` (10_state.md R24). -/
  isParked    : Bool
  /-- `system_ready` (10_state.md R25). -/
  systemReady : Bool
deriving DecidableEq, Repr

/-- The Actuator State, owned by the actuation controller (10_state.md R26 to R30). -/
structure ActuatorState where
  /-- `bedlight`, the illumination output register (10_state.md R26). -/
  bedlight    : Bool
  /-- `release`, the latched mechanical-release output register (10_state.md R27). -/
  release     : Bool
  /-- `started_at` (10_state.md R28). -/
  startedAt   : Timestamp
  /-- `button_input`, `true` = pressed (10_state.md R29). -/
  buttonInput : Bool
  /-- `rule_prev`, the hidden edge register (10_state.md R30). -/
  rulePrev    : Bool
deriving DecidableEq, Repr

/-- A write event of the output history, with the `now` of the `ACT` that emitted it (10_state.md R38). -/
inductive OutputEvent where
  | writeBedlight (b : Bool) (now : Timestamp)
  | writeReleaseOutput (b : Bool) (now : Timestamp)
deriving DecidableEq, Repr

/-- The machine. `cfg` and `inbox` are the model's own fields: the configuration in force (log entry 1) and the
transactions the host has still to have performed, next one first (log entry 3). -/
structure State where
  cfg      : Config
  vehicle  : VehicleState
  actuator : ActuatorState
  /-- The `RESULT` port after the last transaction (30_encoding.md R80; log entry 4). -/
  result   : Word
  /-- The output event history, oldest first (10_state.md R38; log entry 11). -/
  events   : List OutputEvent
  inbox    : List Transaction
deriving DecidableEq, Repr

/-- The faults of the block: none. "The block raises no exception" (60_exceptions.md R200). -/
inductive Fault where
deriving DecidableEq, Repr

/-- What the model refuses (60_exceptions.md R203). Each refusal marks an input the spec gives no meaning. -/
inductive Refusal where
  /-- Raised by `exec` for an instruction without a meaning. Safe: the model stops. No arm of this model uses it. -/
  | notModelled (mnemonic : String)
  /-- Raised by `step` for a configuration that breaks a constraint of 70_reset_and_hazards.md R234. Safe. -/
  | badConfiguration
  /-- Raised by `step` for a transaction with `OP` `0x0` or `0x8..0xF` (30_encoding.md R84). Safe. -/
  | reservedOpcode (op : BitVec 4)
  /-- Raised by `step` for a `FRAME` with `LEN` in `9..15` (30_encoding.md R87). Safe. -/
  | notAFrame (len : BitVec 4)
deriving DecidableEq, Repr

/-- A signal's registers at reset (10_state.md R40). -/
def SignalRegs.reset (w : Nat) : SignalRegs w where
  cur := none
  prev := none
  last := 0
  seen := false

/-- The Vehicle State at reset (10_state.md R40; 70_reset_and_hazards.md R230). -/
def VehicleState.reset : VehicleState where
  lamp := SignalRegs.reset 2
  lock := SignalRegs.reset 2
  park := SignalRegs.reset 4
  batt := SignalRegs.reset 7
  bedlightOn := false
  isUnlocked := false
  isParked := false
  systemReady := false

/-- The Actuator State at reset (10_state.md R40; 70_reset_and_hazards.md R230). -/
def ActuatorState.reset : ActuatorState where
  bedlight := false
  release := false
  startedAt := 0
  buttonInput := false
  rulePrev := false

/-- The block right after power-up under a configuration (70_reset_and_hazards.md R231), with no event (10_state.md R40)
and nothing presented yet. The value of `RESULT` is a DESIGN CHOICE, log entry 4. -/
def State.powerUp (c : Config) : State where
  cfg := c
  vehicle := VehicleState.reset
  actuator := ActuatorState.reset
  result := 0
  events := []
  inbox := []

/-- The machine right after reset, under the spec's example configuration (log entry 2). -/
def State.reset : State := State.powerUp Config.ex

end Sys2Proof.Machine
end

