-- ==== Sys2Proof/Machine/Time.lean ====
section
/-! DEFINITION. Timestamp arithmetic modulo `2^W` (00_scope.md R11; 60_exceptions.md R211). -/

namespace Sys2Proof

/-- The low `W` bits of a time operand: what a `W`-bit bus carries (30_encoding.md R80). -/
def wrapTime (c : Config) (t : Timestamp) : Timestamp := BitVec.ofNat 64 (t.toNat % 2 ^ c.tsWidth)

/-- `a ⊖ b = (a - b) mod 2^W` as a number (00_scope.md R11). For `W ≤ 64` the 64-bit difference reduced modulo `2^W`
is that difference. -/
def elapsed (c : Config) (a b : Timestamp) : Nat := (a - b).toNat % 2 ^ c.tsWidth

end Sys2Proof
end

