-- ==== Sys2Proof/Machine/Flags.lean ====
section
/-! DEFINITION. Flag computations: the three derived-boolean predicates, freshness, the activation rule and its edge
(42_aggregator.md R145 to R150; 43_actuation.md R173, R174, R179). -/

namespace Sys2Proof.Machine

/-- `lamp_active(v)`, on every unsigned integer (42_aggregator.md R145). -/
def lampActive (v : Nat) : Bool := v == 1 || v == 2

/-- `unlocked(v)`, on every unsigned integer (42_aggregator.md R146). -/
def unlocked (v : Nat) : Bool := v == 2 || v == 3

/-- `parked(v)`, on every unsigned integer (42_aggregator.md R147). -/
def parked (v : Nat) : Bool := v == 1

/-- The time since the last update is inside the readiness window (42_aggregator.md R148; strict). -/
def withinWindow (c : Config) (now last : Timestamp) : Bool := decide (elapsed c now last < c.readinessTimeout)

/-- `fresh_k(now)` (42_aggregator.md R148, both policies). -/
def fresh {w : Nat} (c : Config) (r : SignalRegs w) (now : Timestamp) : Bool :=
  match c.initFreshness with
  | .neverFresh => r.seen && withinWindow c now r.last
  | .zeroTimestamp => withinWindow c now r.last

/-- At least one signal is fresh (42_aggregator.md R149). -/
def anyFresh (c : Config) (v : VehicleState) (now : Timestamp) : Bool :=
  fresh c v.lamp now || fresh c v.lock now || fresh c v.park now || fresh c v.batt now

/-- The states of the per-signal freshness machine (42_aggregator.md R150). -/
inductive Freshness where
  | never | fresh | stale
deriving DecidableEq, Repr

/-- The freshness state of a signal at a time: a function of `now`, no register (42_aggregator.md R150). `never` exists
under `NEVER_FRESH` only; under `ZERO_TIMESTAMP` an unseen signal counts as updated at time 0 (R152). DEDUCED, log entry 16. -/
def freshnessOf {w : Nat} (c : Config) (r : SignalRegs w) (now : Timestamp) : Freshness :=
  match c.initFreshness, r.seen with
  | .neverFresh, false => .never
  | _, _ => if withinWindow c now r.last then .fresh else .stale

/-- The activation rule (43_actuation.md R173). -/
def activationRule (v : VehicleState) : Bool := v.systemReady && v.isParked && v.isUnlocked

/-- The rule's rising edge under the re-arm policy (43_actuation.md R174, R179). -/
def risingEdge (c : Config) (a : ActuatorState) (rule : Bool) : Bool :=
  match c.rearmPolicy with
  | .edge => rule && !a.rulePrev
  | .level => rule && !a.release

/-- The release window has run out (43_actuation.md R176; at exactly `FIXED_DURATION` it has). -/
def windowOver (c : Config) (now startedAt : Timestamp) : Bool := decide (c.fixedDuration ≤ elapsed c now startedAt)

end Sys2Proof.Machine
end

