-- ==== Sys2Proof/WellFormed.lean ====
section
/-! DEFINITION. Which instructions a transaction can spell under a configuration: times fit the `W`-bit buses
(30_encoding.md R80) and the identifier of `FRAME.OTHER` is none of the four (30_encoding.md R83). Frame lengths and
bus widths hold by type. -/

namespace Sys2Proof

/-- A timestamp that fits the `W`-bit bus (00_scope.md R8). -/
def timeFits (c : Config) (t : Timestamp) : Bool := decide (t.toNat < 2 ^ c.tsWidth)

/-- The instruction is one that some transaction spells. -/
def Instr.wellFormed (c : Config) : Instr → Bool
  | .frameLamp _ _ ts => timeFits c ts
  | .frameLock _ _ ts => timeFits c ts
  | .framePark _ _ ts => timeFits c ts
  | .frameBatt _ _ ts => timeFits c ts
  | .frameOther id _ _ ts =>
      timeFits c ts && id != c.idLamp && id != c.idLock && id != c.idPark && id != c.idBatt
  | .ready now => timeFits c now
  | .act now _ => timeFits c now
  | .extract _ _ _ => true
  | .set _ _ _ _ => true
  | .read _ => true
  | .reset => true

end Sys2Proof
end

