-- ==== Sys2Proof/Decode.lean ====
section
/-! DEFINITION. Decoding a transaction into an instruction, total on every value of the buses and rejecting by name, and
the encoder back (30_encoding.md R80 to R88). -/

namespace Sys2Proof

/-- The opcodes of the map of 30_encoding.md R82. -/
inductive Opcode where
  | frame | ready | act | extract | set | read | reset
deriving DecidableEq, Repr

/-- Why the decoder refuses a transaction. -/
inductive DecodeError where
  /-- `OP` is `0x0` or `0x8..0xF` (30_encoding.md R84). -/
  | reservedOpcode (op : BitVec 4)
  /-- A `FRAME` with `LEN` in `9..15` (30_encoding.md R87). -/
  | notAFrame (len : BitVec 4)
deriving DecidableEq, Repr

/-- The opcode map, from the 4-bit code (30_encoding.md R82); `none` for a reserved code (R84). -/
def decodeOp (op : BitVec 4) : Option Opcode :=
  if op = 0x1#4 then some .frame
  else if op = 0x2#4 then some .ready
  else if op = 0x3#4 then some .act
  else if op = 0x4#4 then some .extract
  else if op = 0x5#4 then some .set
  else if op = 0x6#4 then some .read
  else if op = 0x7#4 then some .reset
  else none

/-- The opcode map, to the 4-bit code (30_encoding.md R82). -/
def encodeOp : Opcode → BitVec 4
  | .frame => 0x1#4
  | .ready => 0x2#4
  | .act => 0x3#4
  | .extract => 0x4#4
  | .set => 0x5#4
  | .read => 0x6#4
  | .reset => 0x7#4

/-- The classification predicate (41_frame_parsers.md R120): equality on all 11 bits with one of the four. -/
def isRecognized (c : Config) (id : Identifier) : Bool :=
  id == c.idLamp || id == c.idLock || id == c.idPark || id == c.idBatt

/-- Which signal's message an identifier names (30_encoding.md R83); `none` for any other value. -/
def classify (c : Config) (id : Identifier) : Option Signal :=
  if id = c.idLamp then some .lamp
  else if id = c.idLock then some .lock
  else if id = c.idPark then some .park
  else if id = c.idBatt then some .batt
  else none

/-- The `FRAME` sub-operation of a classified frame (30_encoding.md R83). -/
def frameInstr (k : Option Signal) (id : Identifier) (len : Fin 9) (data : Payload) (ts : Timestamp) : Instr :=
  match k with
  | some .lamp => .frameLamp len data ts
  | some .lock => .frameLock len data ts
  | some .park => .framePark len data ts
  | some .batt => .frameBatt len data ts
  | none => .frameOther id len data ts

/-- The second decode of a `FRAME`, on `LEN` (30_encoding.md R87) and `ID` (R83). -/
def decodeFrame (c : Config) (t : Transaction) : Except DecodeError Instr :=
  if h : t.len.toNat < 9 then
    .ok (frameInstr (classify c t.id) t.id ⟨t.len.toNat, h⟩ t.data (wrapTime c t.ts))
  else .error (.notAFrame t.len)

/-- The decoder: the buses the opcode's format reads, and no other (30_encoding.md R80, R81). -/
def decode (c : Config) (t : Transaction) : Except DecodeError Instr :=
  match decodeOp t.op with
  | none => .error (.reservedOpcode t.op)
  | some .frame => decodeFrame c t
  | some .ready => .ok (.ready (wrapTime c t.now))
  | some .act => .ok (.act (wrapTime c t.now) t.btnN)
  | some .extract => .ok (.extract t.data t.msb t.wid)
  | some .set => .ok (.set t.data t.msb t.wid t.val)
  | some .read => .ok (.read t.addr)
  | some .reset => .ok .reset

/-! ## Encoding -/

/-- The opcode of an instruction's row (30_encoding.md R82). -/
def Instr.opcode : Instr → Opcode
  | .frameLamp _ _ _ => .frame
  | .frameLock _ _ _ => .frame
  | .framePark _ _ _ => .frame
  | .frameBatt _ _ _ => .frame
  | .frameOther _ _ _ _ => .frame
  | .ready _ => .ready
  | .act _ _ => .act
  | .extract _ _ _ => .extract
  | .set _ _ _ _ => .set
  | .read _ => .read
  | .reset => .reset

/-- A transaction of an opcode with every operand bus at 0. What stands on a bus that the opcode does not read is
ignored (30_encoding.md R80); the encoder drives 0 there. DESIGN CHOICE, log entry 14. -/
def Transaction.blank (o : Opcode) : Transaction where
  op := encodeOp o
  id := 0
  len := 0
  data := 0
  ts := 0
  now := 0
  btnN := false
  msb := 0
  wid := 0
  val := 0
  addr := 0

/-- The `FRAME` transaction of a frame (30_encoding.md R81, format `F-FRAME`). -/
def encodeFrame (id : Identifier) (len : Fin 9) (data : Payload) (ts : Timestamp) : Transaction :=
  { Transaction.blank .frame with id := id, len := BitVec.ofNat 4 len.val, data := data, ts := ts }

/-- The transaction that spells an instruction (30_encoding.md R81 to R83). -/
def encode (c : Config) : Instr → Transaction
  | .frameLamp len data ts => encodeFrame c.idLamp len data ts
  | .frameLock len data ts => encodeFrame c.idLock len data ts
  | .framePark len data ts => encodeFrame c.idPark len data ts
  | .frameBatt len data ts => encodeFrame c.idBatt len data ts
  | .frameOther id len data ts => encodeFrame id len data ts
  | .ready now => { Transaction.blank .ready with now := now }
  | .act now btnN => { Transaction.blank .act with now := now, btnN := btnN }
  | .extract data msb wid => { Transaction.blank .extract with data := data, msb := msb, wid := wid }
  | .set data msb wid val =>
      { Transaction.blank .set with data := data, msb := msb, wid := wid, val := val }
  | .read addr => { Transaction.blank .read with addr := addr }
  | .reset => Transaction.blank .reset

/-! ## The opcode table's rows -/

/-- A row of the opcode table on the 15-bit decode key `ID` over `OP` (30_encoding.md R83). -/
structure TableRow where
  pattern : BitVec 15
  mask    : BitVec 15
deriving DecidableEq, Repr

/-- The decode key `(ID[10:0], OP[3:0])` (30_encoding.md R83). -/
def Transaction.decodeKey (t : Transaction) : BitVec 15 := (t.id.setWidth 15 <<< 4) ||| t.op.setWidth 15

/-- The row matches the transaction's decode key. -/
def TableRow.hits (r : TableRow) (t : Transaction) : Bool := t.decodeKey &&& r.mask == r.pattern

/-- The row of `FRAME.k`: match `(ID_k << 4) | 0x1`, mask `0x7FFF` (30_encoding.md R83). -/
def frameRow (c : Config) (k : Signal) : TableRow where
  pattern := ((c.idOf k).setWidth 15 <<< 4) ||| 0x1#15
  mask := 0x7FFF#15

/-- The row of an opcode: match the opcode, mask `0xF` (30_encoding.md R82). For `FRAME` it is the row `FRAME.OTHER`,
which matches only where no `FRAME.k` row does. -/
def opRow (o : Opcode) : TableRow where
  pattern := (encodeOp o).setWidth 15
  mask := 0xF#15

/-! ## The host's table words -/

/-- The transaction whose decode key is the table word `w` of `nbits` bits: `OP` in bits 3..0 and `ID` in bits 14..4
(30_encoding.md R83); the table numbers no bit of any other bus, so those are 0. DESIGN CHOICE, log entry 10. -/
def Transaction.ofTableWord (nbits w : Nat) : Transaction :=
  { Transaction.blank .frame with
    op := BitVec.ofNat 4 (w % 2 ^ nbits)
    id := BitVec.ofNat 11 (w % 2 ^ nbits / 16) }

/-- The instruction the decoder reads from a table word, under the configuration `State.reset` carries. -/
def decodeTableWord (nbits w : Nat) : Option Instr :=
  (decode Config.ex (Transaction.ofTableWord nbits w)).toOption

end Sys2Proof
end

