-- ==== Sys2Proof/Machine/Operands.lean ====
section
/-! DEFINITION. Operand forms: the payload's bytes, the codec's field read and write, the descriptor table and the
frame parsers (20_memory.md R50 to R58; 40_codec.md R100 to R104; 30_encoding.md R73; 41_frame_parsers.md R121 to R125). -/

namespace Sys2Proof.Machine

/-! ## Payload bytes -/

/-- Byte `b[i]` of a payload: bits `8i+7..8i` (20_memory.md R50). -/
def payloadByte (P : Payload) (i : Nat) : BitVec 8 := (P >>> (8 * i)).setWidth 8

/-- The payload of a list of bytes, `b[0]` first (20_memory.md R50; 30_encoding.md R71). -/
def payloadOfBytes : List (BitVec 8) → Payload
  | [] => 0
  | b :: bs => b.setWidth 64 ||| (payloadOfBytes bs <<< 8)

/-! ## The signal codec -/

/-- `mask(w) = 2^w - 1`, exact for `w` in `0..64` (00_scope.md R10). -/
def mask (w : Nat) : Word := BitVec.ofNat 64 (2 ^ w - 1)

/-- The range rule under the low-bit reading (40_codec.md R100). -/
def fieldValidLowBit (msb w : Nat) : Bool := decide (1 ≤ w) && decide (w ≤ 64) && decide (msb ≤ 63) && decide (w ≤ msb + 1)

/-- The range rule `fv` under the configured reading (40_codec.md R100). -/
def fieldValid (r : ExtractRange) (msb w : Nat) : Bool :=
  match r with
  | .lowBit => fieldValidLowBit msb w
  | .msbPlusWidth => fieldValidLowBit msb w && decide (msb + w ≤ 64)

/-- `Field(P, msb, w)` (40_codec.md R101): the field's value, 0 for an out-of-range request. -/
def field (r : ExtractRange) (P : Payload) (msb w : Nat) : Word :=
  if fieldValid r msb w then (P >>> (msb + 1 - w)) &&& mask w else 0

/-- `SetField(P, msb, w, v)` (40_codec.md R102): the low `w` bits of `v` in the field's place (R103); the payload
unchanged for an out-of-range request (R104). -/
def setField (r : ExtractRange) (P : Payload) (msb w : Nat) (v : Word) : Payload :=
  if fieldValid r msb w then
    (P &&& ~~~(mask w <<< (msb + 1 - w))) ||| ((v &&& mask w) <<< (msb + 1 - w))
  else P

/-! ## Descriptors and parsers -/

/-- The descriptor table (30_encoding.md R73). -/
def descriptor : Signal → Descriptor
  | .lamp => ⟨11, 2⟩
  | .lock => ⟨34, 2⟩
  | .park => ⟨31, 4⟩
  | .batt => ⟨22, 7⟩

/-- The parser template `PARSE_k` (41_frame_parsers.md R121), with a `w`-bit value. -/
def parseSignal (c : Config) (k : Signal) (w : Nat) (f : Frame) : ParseResult w :=
  if f.identifier ≠ c.idOf k ∨ f.length.val ≠ 8 then ⟨false, 0⟩
  else ⟨true, (field c.extractRange f.payload (descriptor k).msb (descriptor k).width).setWidth w⟩

/-- `PARSE_LAMP` (41_frame_parsers.md R122). -/
def parseLamp (c : Config) (f : Frame) : ParseResult 2 := parseSignal c .lamp 2 f

/-- `PARSE_LOCK` (41_frame_parsers.md R123). -/
def parseLock (c : Config) (f : Frame) : ParseResult 2 := parseSignal c .lock 2 f

/-- `PARSE_PARK` (41_frame_parsers.md R124). -/
def parsePark (c : Config) (f : Frame) : ParseResult 4 := parseSignal c .park 4 f

/-- `PARSE_BATT` (41_frame_parsers.md R125). -/
def parseBatt (c : Config) (f : Frame) : ParseResult 7 := parseSignal c .batt 7 f

end Sys2Proof.Machine
end

