-- ==== Sys2Proof/Machine/Ops.lean ====
section
/-! DEFINITION. The named operations over the state: configuration admission, taking the next transaction, the signal
updates, emitting events, and the ports. The block takes no exception and returns from none (60_exceptions.md R200, R207,
R208), so there is no such operation. -/

namespace Sys2Proof.Machine

/-! ## Admission and the host's transactions -/

/-- The timestamp width is admissible (70_reset_and_hazards.md R234). -/
def widthAdmissible (c : Config) : Bool := decide (1 ≤ c.tsWidth ∧ c.tsWidth ≤ 64)

/-- A duration parameter is admissible: at least 1, below half the wrap period (70_reset_and_hazards.md R234). -/
def durationAdmissible (c : Config) (d : Nat) : Bool := decide (1 ≤ d ∧ d < 2 ^ (c.tsWidth - 1))

/-- The four identifiers are pairwise distinct (70_reset_and_hazards.md R234). -/
def idsDistinct (c : Config) : Bool :=
  decide (c.idLamp ≠ c.idLock ∧ c.idLamp ≠ c.idPark ∧ c.idLamp ≠ c.idBatt
    ∧ c.idLock ≠ c.idPark ∧ c.idLock ≠ c.idBatt ∧ c.idPark ≠ c.idBatt)

/-- Configuration admission (70_reset_and_hazards.md R234). The identifiers' range and the policies' values hold by type. -/
def admissible (c : Config) : Bool :=
  widthAdmissible c
    && (durationAdmissible c c.readinessTimeout && (durationAdmissible c c.fixedDuration && idsDistinct c))

/-- The refusal of a decoding error (60_exceptions.md R203). -/
def refusalOf : DecodeError → Refusal
  | .reservedOpcode op => .reservedOpcode op
  | .notAFrame len => .notAFrame len

/-- The transaction the host presents next, and the state with it taken (20_memory.md R60, R61: each once, in order). -/
def fetch (s : State) : Option (Transaction × State) :=
  match s.inbox with
  | [] => none
  | t :: rest => some (t, { s with inbox := rest })

/-- The state with a transaction presented next, before any other. -/
def State.presentNext (s : State) (t : Transaction) : State := { s with inbox := t :: s.inbox }

/-! ## Results, events and ports -/

/-- A transaction's value on the `RESULT` port (30_encoding.md R80). -/
def State.withResult (s : State) (r : Word) : State := { s with result := r }

/-- `Emit`, for the events of one transaction in their order (00_scope.md R12; 10_state.md R38). -/
def State.emit (s : State) (es : List OutputEvent) : State := { s with events := s.events ++ es }

/-- The output port `BEDLIGHT` (10_state.md R37). -/
def State.bedlightPort (s : State) : Bool := s.actuator.bedlight

/-- The output port `RELEASE` (10_state.md R37). -/
def State.releasePort (s : State) : Bool := s.actuator.release

/-- The output port `RESULT` (60_exceptions.md R212). -/
def State.resultPort (s : State) : Word := s.result

/-! ## Updates -/

/-- The register part of an accepted `UPDATE_k` (42_aggregator.md R140). -/
def SignalRegs.accept {w : Nat} (r : SignalRegs w) (v : BitVec w) (ts : Timestamp) : SignalRegs w where
  cur := some v
  prev := r.cur
  last := ts
  seen := true

/-- `UPDATE_LAMP` (42_aggregator.md R141). -/
def VehicleState.updateLamp (v : VehicleState) (r : ParseResult 2) (ts : Timestamp) : VehicleState :=
  if r.valid then { v with lamp := v.lamp.accept r.value ts, bedlightOn := lampActive r.value.toNat } else v

/-- `UPDATE_LOCK` (42_aggregator.md R142). -/
def VehicleState.updateLock (v : VehicleState) (r : ParseResult 2) (ts : Timestamp) : VehicleState :=
  if r.valid then { v with lock := v.lock.accept r.value ts, isUnlocked := unlocked r.value.toNat } else v

/-- `UPDATE_PARK` (42_aggregator.md R143). -/
def VehicleState.updatePark (v : VehicleState) (r : ParseResult 4) (ts : Timestamp) : VehicleState :=
  if r.valid then { v with park := v.park.accept r.value ts, isParked := parked r.value.toNat } else v

/-- `UPDATE_BATT` (42_aggregator.md R144): no derived boolean. -/
def VehicleState.updateBatt (v : VehicleState) (r : ParseResult 7) (ts : Timestamp) : VehicleState :=
  if r.valid then { v with batt := v.batt.accept r.value ts } else v

end Sys2Proof.Machine
end

