-- ==== Sys2Proof/Machine/Actuation.lean ====
section
/-! DEFINITION. The `ACT` instruction, part by part in the order of its pseudocode (43_actuation.md R170). -/

namespace Sys2Proof.Machine

/-- The activation branch is taken: an edge while the output is off (43_actuation.md R174, R177). -/
def activates (c : Config) (v : VehicleState) (a : ActuatorState) : Bool :=
  risingEdge c a (activationRule v) && !a.release

/-- `started_at` after the step: written on activation only (43_actuation.md R174, R177). -/
def startedAtAfter (c : Config) (v : VehicleState) (a : ActuatorState) (now : Timestamp) : Timestamp :=
  bif activates c v a then now else a.startedAt

/-- `release` after part (3), activation or condition-driven deactivation (43_actuation.md R174, R175). -/
def releaseAfterRule (c : Config) (v : VehicleState) (a : ActuatorState) : Bool :=
  bif activates c v a then true
  else bif !activationRule v && a.release then false
  else a.release

/-- `release` after part (4), timer-driven deactivation (43_actuation.md R176). -/
def releaseAfter (c : Config) (v : VehicleState) (a : ActuatorState) (now : Timestamp) : Bool :=
  bif releaseAfterRule c v a && windowOver c now (startedAtAfter c v a now) then false else releaseAfterRule c v a

/-- The Actuator State after the step (43_actuation.md R170 to R177, R179). -/
def actuatorAfter (c : Config) (v : VehicleState) (a : ActuatorState) (now : Timestamp) (btnN : Bool) : ActuatorState where
  bedlight := v.bedlightOn
  release := releaseAfter c v a now
  startedAt := startedAtAfter c v a now
  buttonInput := !btnN
  rulePrev := activationRule v

/-- One event where an output changed, none where it did not (43_actuation.md R178). -/
def eventIf (changed : Bool) (e : OutputEvent) : List OutputEvent := bif changed then [e] else []

/-- The write events of a step: one for each output whose value changed, bedlight first (43_actuation.md R178). -/
def writeEvents (before after : ActuatorState) (now : Timestamp) : List OutputEvent :=
  eventIf (after.bedlight != before.bedlight) (.writeBedlight after.bedlight now)
    ++ eventIf (after.release != before.release) (.writeReleaseOutput after.release now)

/-- `ACT`: one actuation step (43_actuation.md R170). -/
def execAct (now : Timestamp) (btnN : Bool) (s : State) : Host.Outcome State Fault Refusal :=
  .next { (s.withResult 0).emit (writeEvents s.actuator (actuatorAfter s.cfg s.vehicle s.actuator now btnN) now) with
    actuator := actuatorAfter s.cfg s.vehicle s.actuator now btnN }

end Sys2Proof.Machine
end

