-- ==== Sys2Proof/Machine/Codec.lean ====
section
/-! DEFINITION. The codec instructions `EXTRACT` and `SET` (40_codec.md R101, R102). They touch nothing but `RESULT`. -/

namespace Sys2Proof.Machine

/-- `EXTRACT`: read a bit-field (40_codec.md R101). -/
def execExtract (data : Payload) (msb wid : BitVec 8) (s : State) : Host.Outcome State Fault Refusal :=
  .next (s.withResult (field s.cfg.extractRange data msb.toNat wid.toNat))

/-- `SET`: write a bit-field into the operand's copy (40_codec.md R102). -/
def execSet (data : Payload) (msb wid : BitVec 8) (val : Word) (s : State) : Host.Outcome State Fault Refusal :=
  .next (s.withResult (setField s.cfg.extractRange data msb.toNat wid.toNat val))

end Sys2Proof.Machine
end

