-- ==== Sys2Proof/Machine/Frames.lean ====
section
/-! DEFINITION. The five `FRAME` instructions (41_frame_parsers.md R127 to R132). Each returns no value, so `RESULT` is 0
(30_encoding.md R80). -/

namespace Sys2Proof.Machine

/-- `FRAME.LAMP`: `PARSE_LAMP` then `UPDATE_LAMP` (41_frame_parsers.md R127). -/
def execFrameLamp (len : Fin 9) (data : Payload) (ts : Timestamp) (s : State) : Host.Outcome State Fault Refusal :=
  .next { s.withResult 0 with vehicle := s.vehicle.updateLamp (parseLamp s.cfg ⟨s.cfg.idLamp, len, data, ts⟩) ts }

/-- `FRAME.LOCK`: `PARSE_LOCK` then `UPDATE_LOCK` (41_frame_parsers.md R128). -/
def execFrameLock (len : Fin 9) (data : Payload) (ts : Timestamp) (s : State) : Host.Outcome State Fault Refusal :=
  .next { s.withResult 0 with vehicle := s.vehicle.updateLock (parseLock s.cfg ⟨s.cfg.idLock, len, data, ts⟩) ts }

/-- `FRAME.PARK`: `PARSE_PARK` then `UPDATE_PARK` (41_frame_parsers.md R129). -/
def execFramePark (len : Fin 9) (data : Payload) (ts : Timestamp) (s : State) : Host.Outcome State Fault Refusal :=
  .next { s.withResult 0 with vehicle := s.vehicle.updatePark (parsePark s.cfg ⟨s.cfg.idPark, len, data, ts⟩) ts }

/-- `FRAME.BATT`: `PARSE_BATT` then `UPDATE_BATT` (41_frame_parsers.md R130). -/
def execFrameBatt (len : Fin 9) (data : Payload) (ts : Timestamp) (s : State) : Host.Outcome State Fault Refusal :=
  .next { s.withResult 0 with vehicle := s.vehicle.updateBatt (parseBatt s.cfg ⟨s.cfg.idBatt, len, data, ts⟩) ts }

/-- `FRAME.OTHER`: no parser runs and nothing changes (41_frame_parsers.md R131). -/
def execFrameOther (_id : Identifier) (_len : Fin 9) (_data : Payload) (_ts : Timestamp) (s : State) :
    Host.Outcome State Fault Refusal :=
  .next (s.withResult 0)

end Sys2Proof.Machine
end

