-- ==== Sys2Proof/Machine/Observability.lean ====
section
/-! DEFINITION. The status register space and the `READ` instruction (44_observability.md R190 to R195). -/

namespace Sys2Proof.Machine

/-- A one-bit field of a status register at bit `i`. -/
def flagBit (b : Bool) (i : Nat) : Word := (BitVec.ofBool b).setWidth 64 <<< i

/-- The fields of a status register put together. -/
def orFields : List Word → Word
  | [] => 0
  | f :: fs => f ||| orFields fs

/-- Register `0x00` STATUS (44_observability.md R191). -/
def statusFlags (s : State) : Word :=
  orFields
    [flagBit s.vehicle.systemReady 0, flagBit s.vehicle.bedlightOn 1, flagBit s.vehicle.isUnlocked 2,
     flagBit s.vehicle.isParked 3, flagBit s.actuator.bedlight 4, flagBit s.actuator.release 5,
     flagBit s.actuator.buttonInput 6, flagBit s.actuator.rulePrev 7, flagBit s.vehicle.lamp.seen 8,
     flagBit s.vehicle.lock.seen 9, flagBit s.vehicle.park.seen 10, flagBit s.vehicle.batt.seen 11]

/-- The 7-bit value field of a signal register: the code if known, 0 if unknown (44_observability.md R192). -/
def codeField {w : Nat} (v : Option (BitVec w)) : Word :=
  match v with
  | some x => (x.setWidth 7).setWidth 64
  | none => 0

/-- Registers `0x01..0x04` SIG_k (44_observability.md R192). -/
def signalWord {w : Nat} (r : SignalRegs w) : Word :=
  orFields [codeField r.cur, flagBit r.cur.isSome 7, codeField r.prev <<< 8, flagBit r.prev.isSome 15]

/-- `StatusReg(ADDR)`: the status register map (44_observability.md R191 to R194). -/
def statusReg (s : State) (addr : BitVec 8) : Word :=
  match addr.toNat with
  | 0x00 => statusFlags s
  | 0x01 => signalWord s.vehicle.lamp
  | 0x02 => signalWord s.vehicle.lock
  | 0x03 => signalWord s.vehicle.park
  | 0x04 => signalWord s.vehicle.batt
  | 0x05 => s.vehicle.lamp.last
  | 0x06 => s.vehicle.lock.last
  | 0x07 => s.vehicle.park.last
  | 0x08 => s.vehicle.batt.last
  | 0x09 => s.actuator.startedAt
  | _ => 0

/-- `READ`: read a status register (44_observability.md R190). -/
def execRead (addr : BitVec 8) (s : State) : Host.Outcome State Fault Refusal :=
  .next (s.withResult (statusReg s addr))

end Sys2Proof.Machine
end

