-- ==== Sys2Proof/Machine/Readiness.lean ====
section
/-! DEFINITION. The `READY` instruction (42_aggregator.md R149). -/

namespace Sys2Proof.Machine

/-- `READY`: recompute readiness as the OR of the four freshness tests (42_aggregator.md R149). -/
def execReady (now : Timestamp) (s : State) : Host.Outcome State Fault Refusal :=
  .next { s.withResult 0 with vehicle := { s.vehicle with systemReady := anyFresh s.cfg s.vehicle now } }

end Sys2Proof.Machine
end

