-- ==== Sys2Proof/Machine/Resetting.lean ====
section
/-! DEFINITION. The `RESET` instruction (70_reset_and_hazards.md R230). -/

namespace Sys2Proof.Machine

/-- `RESET`: every state element to its reset value; the configuration and the event history stay, and no event is
emitted (70_reset_and_hazards.md R230, R232). -/
def execReset (s : State) : Host.Outcome State Fault Refusal :=
  .next { s.withResult 0 with vehicle := VehicleState.reset, actuator := ActuatorState.reset }

end Sys2Proof.Machine
end

