-- ==== Sys2Proof/Machine/Dispatch.lean ====
section
/-! DEFINITION. One arm per instruction, each one direct call of its meaning. -/

namespace Sys2Proof.Machine

def exec (i : Instr) (s : State) : Host.Outcome State Fault Refusal :=
  match i with
  | .frameLamp len data ts => Sys2Proof.Machine.execFrameLamp len data ts s
  | .frameLock len data ts => Sys2Proof.Machine.execFrameLock len data ts s
  | .framePark len data ts => Sys2Proof.Machine.execFramePark len data ts s
  | .frameBatt len data ts => Sys2Proof.Machine.execFrameBatt len data ts s
  | .frameOther id len data ts => Sys2Proof.Machine.execFrameOther id len data ts s
  | .ready now => Sys2Proof.Machine.execReady now s
  | .act now btnN => Sys2Proof.Machine.execAct now btnN s
  | .extract data msb wid => Sys2Proof.Machine.execExtract data msb wid s
  | .set data msb wid val => Sys2Proof.Machine.execSet data msb wid val s
  | .read addr => Sys2Proof.Machine.execRead addr s
  | .reset => Sys2Proof.Machine.execReset s

end Sys2Proof.Machine
end

