-- ==== Sys2Proof/Machine/Step.lean ====
section
/-! DEFINITION. One step: admit the configuration, take the transaction the host presents next, decode it, perform it.
Each transaction is one atomic step (20_memory.md R60; 70_reset_and_hazards.md R243). -/

namespace Sys2Proof.Machine

/-- One step. An inadmissible configuration takes no step at all (70_reset_and_hazards.md R234); a transaction that spells
nothing is refused (60_exceptions.md R203). While the host presents nothing, nothing changes: DESIGN CHOICE, log entry 3. -/
def step (s : State) : Host.Outcome State Fault Refusal :=
  if admissible s.cfg then
    match fetch s with
    | none => .next s
    | some (t, s') =>
      match decode s'.cfg t with
      | .error e => .refused (refusalOf e)
      | .ok i => exec i s'
  else .refused .badConfiguration

/-- The state in which the host presents, as its next transaction, the one whose table word is `w`. -/
def State.withFetchWord (s : State) (nbits w : Nat) : State := s.presentNext (Transaction.ofTableWord nbits w)

end Sys2Proof.Machine
end

