-- ==== Sys2Proof/Machine/Pseudo.lean ====
section
/-! DEFINITION. The pseudo-operations and the text syntax of a transaction (30_encoding.md R89 to R91). They expand to
transactions and add no behaviour. -/

namespace Sys2Proof.Machine

/-- `FRAME.k v ts`: the shortest frame that delivers `v` to signal `k`, an all-zero payload but for the field
(30_encoding.md R91). -/
def frameShort (c : Config) (k : Signal) (v : Word) (ts : Timestamp) : Transaction :=
  encodeFrame (c.idOf k) 8 (setField c.extractRange 0 (descriptor k).msb (descriptor k).width v) ts

/-- `CYCLE now btn_n frames`: the frames in order, then `READY`, then `ACT`, both at the one `now` (30_encoding.md R90). -/
def cycle (c : Config) (now : Timestamp) (btnN : Bool) (frames : List Transaction) : List Transaction :=
  frames ++ [encode c (.ready now), encode c (.act now btnN)]

/-- Numbers joined by commas. -/
def commaList : List Nat → String
  | [] => ""
  | [n] => toString n
  | n :: ns => toString n ++ "," ++ commaList ns

/-- The eight bytes `b0..b7` of a payload in the text syntax (30_encoding.md R71, R89). -/
def payloadText (P : Payload) : String :=
  "[" ++ commaList ((List.range 8).map fun i => (payloadByte P i).toNat) ++ "]"

/-- One operand in the text syntax. -/
def operandText (name : String) (n : Nat) : String := " " ++ name ++ "=" ++ toString n

/-- The text of a `FRAME` (30_encoding.md R89). -/
def frameText (id : Identifier) (len : Fin 9) (data : Payload) (ts : Timestamp) : String :=
  "FRAME" ++ operandText "id" id.toNat ++ operandText "len" len.val ++ " data=" ++ payloadText data
    ++ operandText "ts" ts.toNat

/-- An instruction in the text syntax (30_encoding.md R89), its numbers in decimal. DESIGN CHOICE, log entry 17. -/
def instrText (c : Config) : Instr → String
  | .frameLamp len data ts => frameText c.idLamp len data ts
  | .frameLock len data ts => frameText c.idLock len data ts
  | .framePark len data ts => frameText c.idPark len data ts
  | .frameBatt len data ts => frameText c.idBatt len data ts
  | .frameOther id len data ts => frameText id len data ts
  | .ready now => "READY" ++ operandText "now" now.toNat
  | .act now btnN => "ACT" ++ operandText "now" now.toNat ++ operandText "btn_n" btnN.toNat
  | .extract data msb wid =>
      "EXTRACT data=" ++ payloadText data ++ operandText "msb" msb.toNat ++ operandText "w" wid.toNat
  | .set data msb wid val =>
      "SET data=" ++ payloadText data ++ operandText "msb" msb.toNat ++ operandText "w" wid.toNat
        ++ operandText "val" val.toNat
  | .read addr => "READ" ++ operandText "addr" addr.toNat
  | .reset => "RESET"

end Sys2Proof.Machine
end

