-- ==== Sys2Proof/Safety.lean ====
section
/-! DEFINITION. The terms the claims use: runs over a list of instructions, the histories the whole-machine rules speak of
(10_state.md R31; 43_actuation.md R182), the invariant of the state, the hard invariant (60_exceptions.md R204) and the host
duties a list can break (60_exceptions.md R216). -/

namespace Sys2Proof.Machine

/-! ## Runs -/

/-- The next state, where the outcome is one. -/
def nextState : Host.Outcome State Fault Refusal → Option State
  | .next s => some s
  | .fault _ => none
  | .refused _ => none

/-- `n` steps of the machine, stopping at the first refusal. -/
def stepN : Nat → State → Host.Outcome State Fault Refusal
  | 0, s => .next s
  | n + 1, s =>
    match step s with
    | .next t => stepN n t
    | .fault f => .fault f
    | .refused r => .refused r

/-- Perform a list of instructions in order (20_memory.md R60). -/
def execAll : List Instr → State → Host.Outcome State Fault Refusal
  | [], s => .next s
  | i :: is, s =>
    match exec i s with
    | .next t => execAll is t
    | .fault f => .fault f
    | .refused r => .refused r

/-- Decode a list of transactions; the first one that spells nothing is the error. -/
def decodeAll (c : Config) : List Transaction → Except DecodeError (List Instr)
  | [] => .ok []
  | t :: ts =>
    match decode c t with
    | .error e => .error e
    | .ok i =>
      match decodeAll c ts with
      | .error e => .error e
      | .ok is => .ok (i :: is)

/-! ## What an instruction is to the whole-machine rules -/

/-- The instruction is `RESET`. -/
def isReset : Instr → Bool
  | .reset => true
  | .frameLamp _ _ _ | .frameLock _ _ _ | .framePark _ _ _ | .frameBatt _ _ _ | .frameOther _ _ _ _ => false
  | .ready _ | .act _ _ | .extract _ _ _ | .set _ _ _ _ | .read _ => false

/-- The `NOW` of an `ACT`. -/
def actNow : Instr → Option Timestamp
  | .act now _ => some now
  | .frameLamp _ _ _ | .frameLock _ _ _ | .framePark _ _ _ | .frameBatt _ _ _ | .frameOther _ _ _ _ => none
  | .ready _ | .extract _ _ _ | .set _ _ _ _ | .read _ | .reset => none

/-- An accepted lamp update: its code `(b[1] >> 2) & 3` (20_memory.md R58) and its `received_at`. -/
def lampUpdate : Instr → Option (BitVec 2 × Timestamp)
  | .frameLamp len data ts => if len.val = 8 then some ((payloadByte data 1 >>> 2).setWidth 2, ts) else none
  | .frameLock _ _ _ | .framePark _ _ _ | .frameBatt _ _ _ | .frameOther _ _ _ _ => none
  | .ready _ | .act _ _ | .extract _ _ _ | .set _ _ _ _ | .read _ | .reset => none

/-- An accepted lock update: its code `(b[4] >> 1) & 3` (20_memory.md R58) and its `received_at`. -/
def lockUpdate : Instr → Option (BitVec 2 × Timestamp)
  | .frameLock len data ts => if len.val = 8 then some ((payloadByte data 4 >>> 1).setWidth 2, ts) else none
  | .frameLamp _ _ _ | .framePark _ _ _ | .frameBatt _ _ _ | .frameOther _ _ _ _ => none
  | .ready _ | .act _ _ | .extract _ _ _ | .set _ _ _ _ | .read _ | .reset => none

/-- An accepted park update: its code `(b[3] >> 4) & 15` (20_memory.md R58) and its `received_at`. -/
def parkUpdate : Instr → Option (BitVec 4 × Timestamp)
  | .framePark len data ts => if len.val = 8 then some ((payloadByte data 3 >>> 4).setWidth 4, ts) else none
  | .frameLamp _ _ _ | .frameLock _ _ _ | .frameBatt _ _ _ | .frameOther _ _ _ _ => none
  | .ready _ | .act _ _ | .extract _ _ _ | .set _ _ _ _ | .read _ | .reset => none

/-- An accepted battery update: its code `b[2] & 0x7F` (20_memory.md R58) and its `received_at`. -/
def battUpdate : Instr → Option (BitVec 7 × Timestamp)
  | .frameBatt len data ts => if len.val = 8 then some ((payloadByte data 2).setWidth 7, ts) else none
  | .frameLamp _ _ _ | .frameLock _ _ _ | .framePark _ _ _ | .frameOther _ _ _ _ => none
  | .ready _ | .act _ _ | .extract _ _ _ | .set _ _ _ _ | .read _ | .reset => none

/-! ## Histories since the last reset -/

/-- What `f` picks out of a list of instructions, newest first, on top of `acc`; `RESET` clears it. -/
def history {α : Type} (f : Instr → Option α) : List α → List Instr → List α
  | acc, [] => acc
  | acc, i :: is => history f (if isReset i then [] else (f i).toList ++ acc) is

/-- The registers of a signal whose accepted updates since the last reset are `h`, newest first (10_state.md R20 to R23,
R31): the current value is the newest one's, the previous value that of the one before. -/
def SignalRegs.ofHistory {w : Nat} : List (BitVec w × Timestamp) → SignalRegs w
  | [] => { cur := none, prev := none, last := 0, seen := false }
  | (v, ts) :: rest => { cur := some v, prev := rest.head?.map (·.1), last := ts, seen := true }

/-- The `ACT`s since the last reset, newest first: the activation rule each computed and its `NOW`
(43_actuation.md R182), on top of `acc`. -/
def actLog : List (Bool × Timestamp) → List Instr → State → List (Bool × Timestamp)
  | acc, [], _ => acc
  | acc, i :: is, s =>
    match exec i s with
    | .next t =>
      actLog (if isReset i then [] else ((actNow i).map fun now => (activationRule s.vehicle, now)).toList ++ acc) is t
    | .fault _ => acc
    | .refused _ => acc

/-- The `NOW`s of the unbroken run of a true rule that ends at the newest `ACT`, newest first (43_actuation.md R182). -/
def trueRun (log : List (Bool × Timestamp)) : List Timestamp := (log.takeWhile (·.1)).map (·.2)

/-- The output ports a host that follows only the write events sees, from `ports` (60_exceptions.md R212). -/
def portsAfterEvents (ports : Bool × Bool) : List OutputEvent → Bool × Bool
  | [] => ports
  | .writeBedlight b _ :: es => portsAfterEvents (b, ports.2) es
  | .writeReleaseOutput b _ :: es => portsAfterEvents (ports.1, b) es

/-! ## Invariants -/

/-- What every reachable signal register set satisfies: seen exactly when known (10_state.md R23), a previous value only
after a current one (R21), a time that fits `W` bits (R22), and time 0 while unseen (R40). -/
structure SignalRegs.Inv {w : Nat} (c : Config) (r : SignalRegs w) : Prop where
  seen_iff_known : r.seen = r.cur.isSome
  prev_needs_cur : r.prev.isSome = true → r.cur.isSome = true
  last_fits : timeFits c r.last = true
  unseen_at_zero : r.seen = false → r.last = 0

/-- A predicate applied to a signal value; an unknown value gives false (10_state.md R40, R24). -/
def derivedOf {w : Nat} (p : Nat → Bool) (v : Option (BitVec w)) : Bool :=
  match v with
  | some x => p x.toNat
  | none => false

/-- What every reachable state satisfies. -/
structure State.Inv (s : State) : Prop where
  lamp_inv : s.vehicle.lamp.Inv s.cfg
  lock_inv : s.vehicle.lock.Inv s.cfg
  park_inv : s.vehicle.park.Inv s.cfg
  batt_inv : s.vehicle.batt.Inv s.cfg
  /-- Each derived boolean is its predicate of the current value (90_conflicts.md C11). -/
  bedlight_on_derived : s.vehicle.bedlightOn = derivedOf lampActive s.vehicle.lamp.cur
  is_unlocked_derived : s.vehicle.isUnlocked = derivedOf unlocked s.vehicle.lock.cur
  is_parked_derived : s.vehicle.isParked = derivedOf parked s.vehicle.park.cur
  started_at_fits : timeFits s.cfg s.actuator.startedAt = true
  /-- Under `EDGE` an active release output means that the rule was true at the last `ACT` (43_actuation.md R180 (a)). -/
  release_needs_rule : s.cfg.rearmPolicy = .edge → s.actuator.release = true → s.actuator.rulePrev = true

/-- The hard invariant at an `ACT` with `NOW = now`: the release output is not active past its fixed maximum duration nor
past the condition becoming false (60_exceptions.md R204, at step granularity). -/
def hardInvariant (now : Timestamp) (t : State) : Prop :=
  t.actuator.release = true →
    activationRule t.vehicle = true ∧ elapsed t.cfg now t.actuator.startedAt < t.cfg.fixedDuration

/-- Two states that differ at most in the values of the battery signal and in `RESULT`. -/
def sameButBattValue (s t : State) : Prop :=
  t = { s with result := t.result,
               vehicle := { s.vehicle with batt := { s.vehicle.batt with cur := t.vehicle.batt.cur, prev := t.vehicle.batt.prev } } }

/-! ## Host duties (60_exceptions.md R216)

The host's monotonic clock is a natural number; the block sees its low `W` bits. A timed list pairs every instruction with
the clock value at which the host presents it. -/

/-- `now` is the clock value as the `W`-bit bus carries it. -/
def carries (c : Config) (clock : Nat) (now : Timestamp) : Prop := now.toNat = clock % 2 ^ c.tsWidth

/-- Duty H1, in part: the `NOW` of every `ACT` is the clock value at which the host presents it. -/
def actsCarryClock (c : Config) (is : List (Nat × Instr)) : Prop :=
  ∀ p ∈ is, ∀ now, actNow p.2 = some now → carries c p.1 now

/-- The clock values of the `ACT`s of a timed list, in order. -/
def actClocks : List (Nat × Instr) → List Nat
  | [] => []
  | p :: ps => if (actNow p.2).isSome then p.1 :: actClocks ps else actClocks ps

/-- Duties H1 and H3: from the clock value `t0` on, `ACT`s come in clock order, each less than `2^W - FIXED_DURATION`
after the one before. -/
def actsCloseEnough (c : Config) (t0 : Nat) (is : List (Nat × Instr)) : Prop :=
  List.IsChain (fun a b => a ≤ b ∧ b - a < 2 ^ c.tsWidth - c.fixedDuration) (t0 :: actClocks is)

/-- Duty H5: every `ACT` of the list has a `READY` between it and the `ACT` before it. `due` says that a `READY` has
come since the last `ACT`. -/
def readyBeforeAct : Bool → List Instr → Bool
  | _, [] => true
  | due, .act _ _ :: is => due && readyBeforeAct false is
  | _, .ready _ :: is => readyBeforeAct true is
  | due, .frameLamp _ _ _ :: is => readyBeforeAct due is
  | due, .frameLock _ _ _ :: is => readyBeforeAct due is
  | due, .framePark _ _ _ :: is => readyBeforeAct due is
  | due, .frameBatt _ _ _ :: is => readyBeforeAct due is
  | due, .frameOther _ _ _ _ :: is => readyBeforeAct due is
  | due, .extract _ _ _ :: is => readyBeforeAct due is
  | due, .set _ _ _ _ :: is => readyBeforeAct due is
  | due, .read _ :: is => readyBeforeAct due is
  | due, .reset :: is => readyBeforeAct due is

end Sys2Proof.Machine
end

