-- ==== Sys2Proof/Certificates/Slice0/Obligations.lean ====
section
/-! DEFINITION. The statements for the provers. A statement whose rule carries the spec's own `[decision: …]` or
`[derived: …]` mark says so in its docstring and has basis 'derived' in OBLIGATIONS.json. -/

open Sys2Proof Sys2Proof.Machine

/-! ## The step, the decoder and the encoder -/

/-- A step performs exactly the transaction the host presents next; while nothing is presented nothing changes.
The inbox is the model's own (log entry 3); that transactions are performed one at a time in order is
20_memory.md §4. -/
def Obligations.StepPerformsTheDecodedInstruction : Prop :=
  ∀ s : State, admissible s.cfg = true →
    (s.inbox = [] → step s = .next s)
    ∧ ∀ t rest i, s.inbox = t :: rest → decode s.cfg t = .ok i → step s = exec i { s with inbox := rest }

/-- A configuration is refused, with no step, exactly when it breaks a constraint of the list of
70_reset_and_hazards.md §1 "Configuration admission". Two of the bounds are the spec's own readings
(92_eei_decisions.md D3, D4), and so is distinctness (D5). -/
def Obligations.InadmissibleConfigurationTakesNoStep : Prop :=
  ∀ s : State, step s = .refused .badConfiguration ↔
    ¬ ((1 ≤ s.cfg.tsWidth ∧ s.cfg.tsWidth ≤ 64)
      ∧ (1 ≤ s.cfg.readinessTimeout ∧ s.cfg.readinessTimeout < 2 ^ (s.cfg.tsWidth - 1))
      ∧ (1 ≤ s.cfg.fixedDuration ∧ s.cfg.fixedDuration < 2 ^ (s.cfg.tsWidth - 1))
      ∧ [s.cfg.idLamp, s.cfg.idLock, s.cfg.idPark, s.cfg.idBatt].Nodup)

/-- `OP` values `0x0` and `0x8..0xF` are refused by name. The refusal is the spec's own decision
(30_encoding.md §4, 92_eei_decisions.md D16). -/
def Obligations.ReservedOpcodesAreRefused : Prop :=
  ∀ (s : State) (t : Transaction) (rest : List Transaction), admissible s.cfg = true → s.inbox = t :: rest →
    (t.op.toNat = 0 ∨ 8 ≤ t.op.toNat) → step s = .refused (.reservedOpcode t.op)

/-- A `FRAME` with `LEN` in `9..15` is refused by name. The refusal is the spec's own decision
(30_encoding.md §4, 92_eei_decisions.md D14). -/
def Obligations.LengthsAboveEightAreRefused : Prop :=
  ∀ (s : State) (t : Transaction) (rest : List Transaction), admissible s.cfg = true → s.inbox = t :: rest →
    t.op = 0x1#4 → 9 ≤ t.len.toNat → step s = .refused (.notAFrame t.len)

/-- The model refuses three things and no other (60_exceptions.md §1; the refusals are the spec's own decisions D14, D16,
D23). -/
def Obligations.StepRefusesOnlyThreeThings : Prop :=
  ∀ (s : State) (r : Refusal), step s = .refused r →
    (admissible s.cfg = false ∧ r = .badConfiguration)
    ∨ ∃ t rest, s.inbox = t :: rest ∧
        ((r = .reservedOpcode t.op ∧ (t.op.toNat = 0 ∨ 8 ≤ t.op.toNat))
          ∨ (r = .notAFrame t.len ∧ t.op = 0x1#4 ∧ 9 ≤ t.len.toNat))

/-- Decode and encode agree: every well-formed instruction, with every operand at every value its encoding admits, under
every admissible configuration. -/
def Obligations.DecodeOfEncodeIsTheInstruction : Prop :=
  ∀ (c : Config) (i : Instr), admissible c = true → i.wellFormed c = true → decode c (encode c i) = .ok i

/-- The other direction: what a transaction decodes to is well formed, and the encoder gives back every bus that the
format reads. That a time comes back as the bus value modulo `2^W` is the model's choice (log entry 5): the spec's buses are
`W` bits wide, and the decoder drops the bits that the model's 64-bit word holds above them. -/
def Obligations.EncodeOfDecodeIsTheTransaction : Prop :=
  ∀ (c : Config) (t : Transaction) (i : Instr), admissible c = true → decode c t = .ok i →
    i.wellFormed c = true ∧ (encode c i).op = t.op
    ∧ (i.opcode = .frame → (encode c i).id = t.id ∧ (encode c i).len = t.len ∧ (encode c i).data = t.data
        ∧ (encode c i).ts.toNat = t.ts.toNat % 2 ^ c.tsWidth)
    ∧ (i.opcode = .ready → (encode c i).now.toNat = t.now.toNat % 2 ^ c.tsWidth)
    ∧ (i.opcode = .act → (encode c i).now.toNat = t.now.toNat % 2 ^ c.tsWidth ∧ (encode c i).btnN = t.btnN)
    ∧ (i.opcode = .extract → (encode c i).data = t.data ∧ (encode c i).msb = t.msb ∧ (encode c i).wid = t.wid)
    ∧ (i.opcode = .set → (encode c i).data = t.data ∧ (encode c i).msb = t.msb ∧ (encode c i).wid = t.wid
        ∧ (encode c i).val = t.val)
    ∧ (i.opcode = .read → (encode c i).addr = t.addr)

/-- The identifier decode of 30_encoding.md R83: a `FRAME` is `FRAME.k` exactly when the row with match `(ID_k << 4) | 0x1`
and mask `0x7FFF` matches its decode key, and `FRAME.OTHER` exactly when `OP = 0x1` and no such row matches. -/
def Obligations.FrameRowsSelectTheSubOperation : Prop :=
  ∀ (c : Config) (t : Transaction) (i : Instr), admissible c = true → decode c t = .ok i →
    ((frameRow c .lamp).hits t = true ↔ ∃ len data ts, i = .frameLamp len data ts)
    ∧ ((frameRow c .lock).hits t = true ↔ ∃ len data ts, i = .frameLock len data ts)
    ∧ ((frameRow c .park).hits t = true ↔ ∃ len data ts, i = .framePark len data ts)
    ∧ ((frameRow c .batt).hits t = true ↔ ∃ len data ts, i = .frameBatt len data ts)
    ∧ ((opRow .frame).hits t = true ∧ (∀ k, (frameRow c k).hits t = false) ↔
        ∃ len data ts, i = .frameOther t.id len data ts)

/-- Operand buses that the opcode does not read are ignored (30_encoding.md §3, formats of the operand table; the command
interface is the spec's own decision D15). -/
def Obligations.UnreadBusesAreIgnored : Prop :=
  ∀ (c : Config) (t u : Transaction), t.op = u.op →
    (t.op = 0x1#4 → t.id = u.id ∧ t.len = u.len ∧ t.data = u.data ∧ t.ts = u.ts) →
    (t.op = 0x2#4 → t.now = u.now) →
    (t.op = 0x3#4 → t.now = u.now ∧ t.btnN = u.btnN) →
    (t.op = 0x4#4 → t.data = u.data ∧ t.msb = u.msb ∧ t.wid = u.wid) →
    (t.op = 0x5#4 → t.data = u.data ∧ t.msb = u.msb ∧ t.wid = u.wid ∧ t.val = u.val) →
    (t.op = 0x6#4 → t.addr = u.addr) →
    decode c t = decode c u

/-- Bus values written out from the encodings of 95_test_vectors.md §3 decode to the instructions they stand for. -/
def Obligations.SpelledTransactionsDecode : Prop :=
  decode Config.ex { Transaction.blank .frame with
      op := 0x1#4, id := 0x011#11, len := 0x8#4, data := 0x1044C70200000F00#64, ts := 0x64#64 }
    = .ok (.frameLock 8 0x1044C70200000F00#64 100#64)
  ∧ decode Config.ex { Transaction.blank .frame with
      op := 0x1#4, id := 0x012#11, len := 0x8#4, data := 0x0000000010000000#64, ts := 0x0A#64 }
    = .ok (.framePark 8 0x10000000#64 10#64)
  ∧ decode Config.ex { Transaction.blank .frame with
      op := 0x1#4, id := 0x7FF#11, len := 0x8#4, data := 0xFFFFFFFFFFFFFFFF#64, ts := 0xAA#64 }
    = .ok (.frameOther 0x7FF#11 8 0xFFFFFFFFFFFFFFFF#64 170#64)
  ∧ decode Config.ex { Transaction.blank .frame with op := 0x2#4, now := 0x1FD#64 } = .ok (.ready 509#64)
  ∧ decode Config.ex { Transaction.blank .frame with op := 0x3#4, now := 0x1FE#64, btnN := true }
    = .ok (.act 510#64 true)
  ∧ decode Config.ex { Transaction.blank .frame with op := 0x6#4, addr := 0x02#8 } = .ok (.read 2#8)

/-- A run performs the presented transactions one after the other, each on the state the one before left
(20_memory.md R60). The inbox that holds them is the model's own (log entry 3). -/
def Obligations.RunPerformsTransactionsInOrder : Prop :=
  ∀ (s : State) (is : List Instr), admissible s.cfg = true → decodeAll s.cfg s.inbox = .ok is →
    stepN s.inbox.length s = execAll is { s with inbox := [] }

/-- The pseudo-operations of 30_encoding.md §5 (the spec's own syntax, D24, D25): `FRAME.k v ts` decodes to the frame of signal
`k` with length 8, the payload that is 0 but for `v` in the signal's field, and the time `ts` (on `W` bits, log entry 5), and
performing it makes `v` the current code; `CYCLE` decodes to its frames, `READY`, `ACT`, both at the one `now`. -/
def Obligations.PseudoOperationsExpand : Prop :=
  ∀ (c : Config), admissible c = true →
    (∀ (v : BitVec 2) (ts : Timestamp) (s : State), s.cfg = c →
      decode c (frameShort c .lamp (v.setWidth 64) ts) = .ok (.frameLamp 8 (v.setWidth 64 <<< 10) (wrapTime c ts))
      ∧ ∃ t, exec (.frameLamp 8 (v.setWidth 64 <<< 10) (wrapTime c ts)) s = .next t ∧ t.vehicle.lamp.cur = some v)
    ∧ (∀ (v : BitVec 2) (ts : Timestamp) (s : State), s.cfg = c →
      decode c (frameShort c .lock (v.setWidth 64) ts) = .ok (.frameLock 8 (v.setWidth 64 <<< 33) (wrapTime c ts))
      ∧ ∃ t, exec (.frameLock 8 (v.setWidth 64 <<< 33) (wrapTime c ts)) s = .next t ∧ t.vehicle.lock.cur = some v)
    ∧ (∀ (v : BitVec 4) (ts : Timestamp) (s : State), s.cfg = c →
      decode c (frameShort c .park (v.setWidth 64) ts) = .ok (.framePark 8 (v.setWidth 64 <<< 28) (wrapTime c ts))
      ∧ ∃ t, exec (.framePark 8 (v.setWidth 64 <<< 28) (wrapTime c ts)) s = .next t ∧ t.vehicle.park.cur = some v)
    ∧ (∀ (v : BitVec 7) (ts : Timestamp) (s : State), s.cfg = c →
      decode c (frameShort c .batt (v.setWidth 64) ts) = .ok (.frameBatt 8 (v.setWidth 64 <<< 16) (wrapTime c ts))
      ∧ ∃ t, exec (.frameBatt 8 (v.setWidth 64 <<< 16) (wrapTime c ts)) s = .next t ∧ t.vehicle.batt.cur = some v)
    ∧ ∀ (now : Timestamp) (btnN : Bool) (frames : List Transaction) (is : List Instr), timeFits c now = true →
        decodeAll c frames = .ok is → decodeAll c (cycle c now btnN frames) = .ok (is ++ [.ready now, .act now btnN])

/-- No instruction traps, aborts or stops: each completes from every state and every operand (60_exceptions.md R200). -/
def Obligations.EveryInstructionCompletes : Prop :=
  ∀ (i : Instr) (s : State), ∃ t, exec i s = .next t ∧ t.cfg = s.cfg ∧ t.inbox = s.inbox

/-! ## Reset -/

/-- After power-up every state element holds the value of the table of 10_state.md §6, under every configuration;
`State.reset` is that state under the example configuration. The rows beyond "unknown" and "outputs off" are the spec's own
decisions (D6, D8, D9, D18, D19); the configuration is the model's choice (log entry 2). -/
def Obligations.PowerUpHoldsTheResetValues : Prop :=
  State.reset = State.powerUp Config.ex
  ∧ ∀ c : Config, State.powerUp c =
    { cfg := c
      vehicle :=
        { lamp := { cur := none, prev := none, last := 0, seen := false }
          lock := { cur := none, prev := none, last := 0, seen := false }
          park := { cur := none, prev := none, last := 0, seen := false }
          batt := { cur := none, prev := none, last := 0, seen := false }
          bedlightOn := false, isUnlocked := false, isParked := false, systemReady := false }
      actuator :=
        { bedlight := false, release := false, startedAt := 0, buttonInput := false, rulePrev := false }
      result := 0, events := [], inbox := [] }

/-- `RESET` returns every state element to its power-up value, leaves the configuration and the event history, emits
nothing, and turns both ports off (70_reset_and_hazards.md §1, the spec's own decision D19). -/
def Obligations.ResetRestoresEveryStateElement : Prop :=
  ∀ s : State, ∃ t, exec .reset s = .next t
    ∧ t = { State.powerUp s.cfg with events := s.events, inbox := s.inbox }
    ∧ t.bedlightPort = false ∧ t.releasePort = false

/-! ## Frames -/

/-- `FRAME.LAMP` (41_frame_parsers.md R127; 42_aggregator.md R141, R145): with length 8 the code `(b[1] >> 2) & 3` becomes
current, the current one previous, the frame's time the last time, and `bedlight_on` is true exactly for codes 1 and 2;
with any other length nothing changes. `RESULT` is 0. -/
def Obligations.FrameLampUpdatesTheLampSignal : Prop :=
  ∀ (s : State) (len : Fin 9) (data : Payload) (ts : Timestamp) (v : BitVec 2),
    v = (payloadByte data 1 >>> 2).setWidth 2 →
    exec (.frameLamp len data ts) s = .next
      (if len.val = 8 then
        { s with result := 0,
                 vehicle := { s.vehicle with lamp := { cur := some v, prev := s.vehicle.lamp.cur, last := ts, seen := true },
                                             bedlightOn := decide (v = 1 ∨ v = 2) } }
      else { s with result := 0 })

/-- `FRAME.LOCK` (41_frame_parsers.md R128; 42_aggregator.md R142, R146): with length 8 the code `(b[4] >> 1) & 3` becomes
current, the current one previous, the frame's time the last time, and `is_unlocked` is true exactly for codes 2 and 3;
with any other length nothing changes. `RESULT` is 0. -/
def Obligations.FrameLockUpdatesTheLockSignal : Prop :=
  ∀ (s : State) (len : Fin 9) (data : Payload) (ts : Timestamp) (v : BitVec 2),
    v = (payloadByte data 4 >>> 1).setWidth 2 →
    exec (.frameLock len data ts) s = .next
      (if len.val = 8 then
        { s with result := 0,
                 vehicle := { s.vehicle with lock := { cur := some v, prev := s.vehicle.lock.cur, last := ts, seen := true },
                                             isUnlocked := decide (v = 2 ∨ v = 3) } }
      else { s with result := 0 })

/-- `FRAME.PARK` (41_frame_parsers.md R129; 42_aggregator.md R143, R147): with length 8 the code `(b[3] >> 4) & 15` becomes
current, the current one previous, the frame's time the last time, and `is_parked` is true exactly for code 1; with any
other length nothing changes. `RESULT` is 0. -/
def Obligations.FrameParkUpdatesTheParkSignal : Prop :=
  ∀ (s : State) (len : Fin 9) (data : Payload) (ts : Timestamp) (v : BitVec 4),
    v = (payloadByte data 3 >>> 4).setWidth 4 →
    exec (.framePark len data ts) s = .next
      (if len.val = 8 then
        { s with result := 0,
                 vehicle := { s.vehicle with park := { cur := some v, prev := s.vehicle.park.cur, last := ts, seen := true },
                                             isParked := decide (v = 1) } }
      else { s with result := 0 })

/-- `FRAME.BATT` (41_frame_parsers.md R130; 42_aggregator.md R144): with length 8 the value `b[2] & 0x7F` becomes current,
the current one previous, the frame's time the last time, and no derived boolean changes; with any other length nothing
changes. `RESULT` is 0. -/
def Obligations.FrameBattUpdatesTheBatterySignal : Prop :=
  ∀ (s : State) (len : Fin 9) (data : Payload) (ts : Timestamp) (v : BitVec 7),
    v = (payloadByte data 2).setWidth 7 →
    exec (.frameBatt len data ts) s = .next
      (if len.val = 8 then
        { s with result := 0,
                 vehicle := { s.vehicle with batt := { cur := some v, prev := s.vehicle.batt.cur, last := ts, seen := true } } }
      else { s with result := 0 })

/-- `FRAME.OTHER` changes nothing, whatever its length (41_frame_parsers.md R131); `RESULT` is 0. -/
def Obligations.FrameOtherChangesNothing : Prop :=
  ∀ (s : State) (id : Identifier) (len : Fin 9) (data : Payload) (ts : Timestamp),
    exec (.frameOther id len data ts) s = .next { s with result := 0 }

/-- Two frames of one message that agree on the bits of its field act the same; of a frame whose length is not 8 no payload
bit matters (20_memory.md §3; the corner cases of 41_frame_parsers.md §3). -/
def Obligations.FramesReadOnlyTheirField : Prop :=
  ∀ (s : State) (len : Fin 9) (p q : Payload) (ts : Timestamp),
    ((len.val = 8 → ∀ j, 10 ≤ j → j ≤ 11 → p.getLsbD j = q.getLsbD j) →
      exec (.frameLamp len p ts) s = exec (.frameLamp len q ts) s)
    ∧ ((len.val = 8 → ∀ j, 33 ≤ j → j ≤ 34 → p.getLsbD j = q.getLsbD j) →
      exec (.frameLock len p ts) s = exec (.frameLock len q ts) s)
    ∧ ((len.val = 8 → ∀ j, 28 ≤ j → j ≤ 31 → p.getLsbD j = q.getLsbD j) →
      exec (.framePark len p ts) s = exec (.framePark len q ts) s)
    ∧ ((len.val = 8 → ∀ j, 16 ≤ j → j ≤ 22 → p.getLsbD j = q.getLsbD j) →
      exec (.frameBatt len p ts) s = exec (.frameBatt len q ts) s)

/-- The parsers (41_frame_parsers.md R122 to R126): each accepts exactly the frames of its identifier with length 8, whatever
the extracted value, and then returns the bits of its byte. -/
def Obligations.ParsersReturnTheirField : Prop :=
  ∀ (c : Config) (f : Frame),
    (((parseLamp c f).valid = true ↔ f.identifier = c.idLamp ∧ f.length.val = 8)
      ∧ ((parseLamp c f).valid = true → (parseLamp c f).value = (payloadByte f.payload 1 >>> 2).setWidth 2))
    ∧ (((parseLock c f).valid = true ↔ f.identifier = c.idLock ∧ f.length.val = 8)
      ∧ ((parseLock c f).valid = true → (parseLock c f).value = (payloadByte f.payload 4 >>> 1).setWidth 2))
    ∧ (((parsePark c f).valid = true ↔ f.identifier = c.idPark ∧ f.length.val = 8)
      ∧ ((parsePark c f).valid = true → (parsePark c f).value = (payloadByte f.payload 3 >>> 4).setWidth 4))
    ∧ (((parseBatt c f).valid = true ↔ f.identifier = c.idBatt ∧ f.length.val = 8)
      ∧ ((parseBatt c f).valid = true → (parseBatt c f).value = (payloadByte f.payload 2).setWidth 7))

/-- The derived-boolean predicates (42_aggregator.md R145, R146, R147), as numbers and through the frames: after an accepted
frame each derived boolean is true exactly for the listed codes of the value that became current. -/
def Obligations.DerivedBooleansFollowTheirPredicates : Prop :=
  (∀ v : Nat, (lampActive v = true ↔ v = 1 ∨ v = 2) ∧ (unlocked v = true ↔ v = 2 ∨ v = 3) ∧ (parked v = true ↔ v = 1))
  ∧ ∀ (s : State) (data : Payload) (ts : Timestamp),
    (∃ t v, exec (.frameLamp 8 data ts) s = .next t ∧ t.vehicle.lamp.cur = some v
      ∧ (t.vehicle.bedlightOn = true ↔ v.toNat = 1 ∨ v.toNat = 2))
    ∧ (∃ t v, exec (.frameLock 8 data ts) s = .next t ∧ t.vehicle.lock.cur = some v
      ∧ (t.vehicle.isUnlocked = true ↔ v.toNat = 2 ∨ v.toNat = 3))
    ∧ ∃ t v, exec (.framePark 8 data ts) s = .next t ∧ t.vehicle.park.cur = some v
      ∧ (t.vehicle.isParked = true ↔ v.toNat = 1)

/-- The derived booleans keep the value of their signal's last accepted update (42_aggregator.md R153): only an accepted
update of the own signal, and `RESET`, changes one, no time operand does; and an `ACT` reads no signal register, so that
staleness acts only through `system_ready`. -/
def Obligations.DerivedBooleansDoNotDecay : Prop :=
  (∀ (i : Instr) (s t : State), exec i s = .next t → isReset i = false →
    (lampUpdate i = none → t.vehicle.bedlightOn = s.vehicle.bedlightOn)
    ∧ (lockUpdate i = none → t.vehicle.isUnlocked = s.vehicle.isUnlocked)
    ∧ (parkUpdate i = none → t.vehicle.isParked = s.vehicle.isParked))
  ∧ ∀ (s : State) (now : Timestamp) (btnN : Bool) (lamp lock : SignalRegs 2) (park : SignalRegs 4) (batt : SignalRegs 7),
    ∃ t u, exec (.act now btnN) s = .next t
      ∧ exec (.act now btnN)
          { s with vehicle := { s.vehicle with lamp := lamp, lock := lock, park := park, batt := batt } } = .next u
      ∧ u.actuator = t.actuator ∧ u.events = t.events

/-- The previous-value invariant (10_state.md R31). After any sequence of instructions from power-up, every signal holds the
code of its last accepted update since the last reset as its current value, that of the one before as its previous value
(unknown while there was at most one), the time of the last one, and its seen flag says that there was one. From every
state, no instruction but an accepted update of the signal, and `RESET`, changes any of the four. That the recorded time is
the frame's is the spec's own decision D13, that the seen flag is clear and the time 0 before any update is D6. -/
def Obligations.SignalRegistersHoldTheLastTwoUpdates : Prop :=
  (∀ (c : Config) (is : List Instr) (t : State), execAll is (State.powerUp c) = .next t →
    t.vehicle.lamp = SignalRegs.ofHistory (history lampUpdate [] is)
    ∧ t.vehicle.lock = SignalRegs.ofHistory (history lockUpdate [] is)
    ∧ t.vehicle.park = SignalRegs.ofHistory (history parkUpdate [] is)
    ∧ t.vehicle.batt = SignalRegs.ofHistory (history battUpdate [] is))
  ∧ ∀ (i : Instr) (s t : State), exec i s = .next t → isReset i = false →
    (lampUpdate i = none → t.vehicle.lamp = s.vehicle.lamp)
    ∧ (lockUpdate i = none → t.vehicle.lock = s.vehicle.lock)
    ∧ (parkUpdate i = none → t.vehicle.park = s.vehicle.park)
    ∧ (battUpdate i = none → t.vehicle.batt = s.vehicle.batt)

/-! ## Readiness -/

/-- `READY` (42_aggregator.md §3): `system_ready` becomes true exactly when at least one signal is fresh, where a signal is
fresh when its age modulo `2^W` is below the timeout and, under `NEVER_FRESH`, it has been seen (the freshness policy is
the spec's own decision D6). Nothing else changes; `RESULT` is 0. -/
def Obligations.ReadyIsTheOrOfFreshSignals : Prop :=
  ∀ (s : State) (now : Timestamp) (ready : Bool), admissible s.cfg = true →
    (let isFresh := fun (seen : Bool) (last : Timestamp) =>
       (s.cfg.initFreshness = .neverFresh → seen = true)
         ∧ ((now.toNat : Int) - last.toNat) % 2 ^ s.cfg.tsWidth < s.cfg.readinessTimeout
     ready = true ↔ isFresh s.vehicle.lamp.seen s.vehicle.lamp.last ∨ isFresh s.vehicle.lock.seen s.vehicle.lock.last
       ∨ isFresh s.vehicle.park.seen s.vehicle.park.last ∨ isFresh s.vehicle.batt.seen s.vehicle.batt.last) →
    exec (.ready now) s = .next { s with result := 0, vehicle := { s.vehicle with systemReady := ready } }

/-- Across the wrap of the timestamp (70_reset_and_hazards.md §2 "Timestamp wraparound"): where the host's clock went from
`x` to `y` in less than a wrap period, a seen signal updated at `x` makes the block ready at `y` when less than the timeout
has passed, and every signal seen and updated at `x` makes it unready when it has passed. -/
def Obligations.ReadinessFollowsTheRealClock : Prop :=
  ∀ (s : State) (now : Timestamp) (x y : Nat), admissible s.cfg = true → x ≤ y → y - x < 2 ^ s.cfg.tsWidth →
    carries s.cfg y now →
    ((∃ r ∈ [(s.vehicle.lamp.seen, s.vehicle.lamp.last), (s.vehicle.lock.seen, s.vehicle.lock.last),
             (s.vehicle.park.seen, s.vehicle.park.last), (s.vehicle.batt.seen, s.vehicle.batt.last)],
        r.1 = true ∧ carries s.cfg x r.2) → y - x < s.cfg.readinessTimeout →
      ∃ t, exec (.ready now) s = .next t ∧ t.vehicle.systemReady = true)
    ∧ ((∀ r ∈ [s.vehicle.lamp.last, s.vehicle.lock.last, s.vehicle.park.last, s.vehicle.batt.last], carries s.cfg x r) →
        s.cfg.readinessTimeout ≤ y - x →
      ∃ t, exec (.ready now) s = .next t ∧ t.vehicle.systemReady = false)

/-- An accepted update at time `now` makes its signal fresh at `now`, whichever signal it is and whatever came before
(42_aggregator.md §3, the per-signal machine): `READY` at that time finds the block ready. -/
def Obligations.UpdateThenReadyIsReady : Prop :=
  ∀ (s : State) (data : Payload) (now : Timestamp), admissible s.cfg = true →
    ∀ i ∈ [Instr.frameLamp 8 data now, Instr.frameLock 8 data now, Instr.framePark 8 data now, Instr.frameBatt 8 data now],
      ∃ t, execAll [i, .ready now] s = .next t ∧ t.vehicle.systemReady = true

/-- The per-signal freshness machine (42_aggregator.md §3, marked there as derived): an accepted update moves its signal to
fresh at the frame's time, `RESET` moves every signal to never under `NEVER_FRESH`, and no other instruction moves a signal
at any time. What it says under `ZERO_TIMESTAMP` of an unseen signal is the model's reading (log entry 16). -/
def Obligations.FreshnessMovesOnlyByUpdateAndReset : Prop :=
  ∀ (i : Instr) (s t : State) (now : Timestamp), admissible s.cfg = true → exec i s = .next t →
    (isReset i = true → s.cfg.initFreshness = .neverFresh →
      freshnessOf t.cfg t.vehicle.lamp now = .never ∧ freshnessOf t.cfg t.vehicle.lock now = .never
        ∧ freshnessOf t.cfg t.vehicle.park now = .never ∧ freshnessOf t.cfg t.vehicle.batt now = .never)
    ∧ (∀ v ts, lampUpdate i = some (v, ts) → freshnessOf t.cfg t.vehicle.lamp ts = .fresh)
    ∧ (∀ v ts, lockUpdate i = some (v, ts) → freshnessOf t.cfg t.vehicle.lock ts = .fresh)
    ∧ (∀ v ts, parkUpdate i = some (v, ts) → freshnessOf t.cfg t.vehicle.park ts = .fresh)
    ∧ (∀ v ts, battUpdate i = some (v, ts) → freshnessOf t.cfg t.vehicle.batt ts = .fresh)
    ∧ (isReset i = false →
      (lampUpdate i = none → freshnessOf t.cfg t.vehicle.lamp now = freshnessOf s.cfg s.vehicle.lamp now)
      ∧ (lockUpdate i = none → freshnessOf t.cfg t.vehicle.lock now = freshnessOf s.cfg s.vehicle.lock now)
      ∧ (parkUpdate i = none → freshnessOf t.cfg t.vehicle.park now = freshnessOf s.cfg s.vehicle.park now)
      ∧ (battUpdate i = none → freshnessOf t.cfg t.vehicle.batt now = freshnessOf s.cfg s.vehicle.batt now))

/-- `system_ready` changes only at `READY` and at `RESET`, and an `ACT` uses the value the last `READY` left
(42_aggregator.md §3). The use is said of `rule_prev`, which holds the rule that the `ACT` computed; that register is the
spec's own decision D9. -/
def Obligations.ReadinessIsLatched : Prop :=
  (∀ (i : Instr) (s t : State), exec i s = .next t → t.vehicle.systemReady ≠ s.vehicle.systemReady →
    (∃ now, i = .ready now) ∨ i = .reset)
  ∧ ∀ (s : State) (now : Timestamp) (btnN : Bool), ∃ t, exec (.act now btnN) s = .next t
      ∧ t.actuator.rulePrev = (s.vehicle.systemReady && s.vehicle.isParked && s.vehicle.isUnlocked)

/-- Degraded condition DC3 (60_exceptions.md §1): when every signal is stale at `now`, or never seen under `NEVER_FRESH` (the
spec's own decision D6) whatever `now` is, `READY` clears `system_ready` and the next `ACT` turns the release output off,
whenever it comes. -/
def Obligations.StaleDataTurnsTheReleaseOff : Prop :=
  ∀ (s : State) (now later : Timestamp) (btnN : Bool),
    (∀ r ∈ [(s.vehicle.lamp.seen, s.vehicle.lamp.last), (s.vehicle.lock.seen, s.vehicle.lock.last),
            (s.vehicle.park.seen, s.vehicle.park.last), (s.vehicle.batt.seen, s.vehicle.batt.last)],
      (s.cfg.initFreshness = .neverFresh ∧ r.1 = false) ∨ s.cfg.readinessTimeout ≤ elapsed s.cfg now r.2) →
    ∃ t, execAll [.ready now, .act later btnN] s = .next t ∧ t.vehicle.systemReady = false ∧ t.releasePort = false

/-! ## Actuation -/

/-- Every `ACT` samples the button, active low, makes the bedlight follow `bedlight_on` whatever the readiness and the other
flags, remembers the rule, and changes no vehicle state (43_actuation.md §2). `RESULT` is 0. The button's level is the spec's
own decision D18, the memory of the rule D9, the first place and the `NOW` of the bedlight's event D10. -/
def Obligations.ActFollowsTheLampAndSamplesTheButton : Prop :=
  ∀ (s : State) (now : Timestamp) (btnN : Bool), ∃ t, exec (.act now btnN) s = .next t
    ∧ t.actuator.bedlight = s.vehicle.bedlightOn
    ∧ t.actuator.buttonInput = !btnN
    ∧ t.actuator.rulePrev = (s.vehicle.systemReady && s.vehicle.isParked && s.vehicle.isUnlocked)
    ∧ (s.actuator.bedlight = s.vehicle.bedlightOn → ∀ b u, OutputEvent.writeBedlight b u ∉ t.events.drop s.events.length)
    ∧ (s.actuator.bedlight ≠ s.vehicle.bedlightOn →
        (t.events.drop s.events.length).head? = some (.writeBedlight s.vehicle.bedlightOn now))
    ∧ t.vehicle = s.vehicle ∧ t.cfg = s.cfg ∧ t.inbox = s.inbox ∧ t.result = 0

/-- Activation on the rising edge under `EDGE` (43_actuation.md §2; the edge memory is the spec's own decision D9,
the last place and the `NOW` of the event D10): the rule true, false at the last `ACT`, and the output off. -/
def Obligations.ActActivatesOnARisingEdge : Prop :=
  ∀ (s : State) (now : Timestamp) (btnN : Bool), 1 ≤ s.cfg.fixedDuration → s.cfg.rearmPolicy = .edge →
    s.vehicle.systemReady = true → s.vehicle.isParked = true → s.vehicle.isUnlocked = true →
    s.actuator.rulePrev = false → s.actuator.release = false →
    ∃ t, exec (.act now btnN) s = .next t ∧ t.actuator.release = true ∧ t.actuator.startedAt = now
      ∧ t.events.getLast? = some (.writeReleaseOutput true now)

/-- Condition-driven deactivation (43_actuation.md §2): at an `ACT` with the rule false an active output turns off whatever time
has passed, with one write event (its `NOW` is the spec's own decision D10), and `started_at` stays. -/
def Obligations.ActTurnsOffWhenTheRuleIsFalse : Prop :=
  ∀ (s : State) (now : Timestamp) (btnN : Bool),
    (s.vehicle.systemReady = false ∨ s.vehicle.isParked = false ∨ s.vehicle.isUnlocked = false) →
    s.actuator.release = true →
    ∃ t, exec (.act now btnN) s = .next t ∧ t.actuator.release = false ∧ t.actuator.startedAt = s.actuator.startedAt
      ∧ ((t.events.drop s.events.length).filter fun e => match e with
          | .writeReleaseOutput _ _ => true
          | .writeBedlight _ _ => false) = [.writeReleaseOutput false now]

/-- Timer-driven deactivation (43_actuation.md §2): an active output turns off at an `ACT` where `FIXED_DURATION` or more has
passed since the start, modulo `2^W`, whatever the rule. That its event comes last and carries the `NOW` is the spec's own
decision D10. -/
def Obligations.ActTurnsOffWhenTheWindowIsOver : Prop :=
  ∀ (s : State) (now : Timestamp) (btnN : Bool), s.cfg.tsWidth ≤ 64 → s.actuator.release = true →
    (s.cfg.fixedDuration : Int) ≤ ((now.toNat : Int) - s.actuator.startedAt.toNat) % 2 ^ s.cfg.tsWidth →
    ∃ t, exec (.act now btnN) s = .next t ∧ t.actuator.release = false
      ∧ t.events.getLast? = some (.writeReleaseOutput false now)

/-- A sustained rule does not restart the timer (43_actuation.md R177): while the output is active no `ACT` moves
`started_at`, and inside the window the output stays on with no write event of its own. -/
def Obligations.SustainedRuleKeepsTheStart : Prop :=
  ∀ (s : State) (now : Timestamp) (btnN : Bool), s.actuator.release = true →
    ∃ t, exec (.act now btnN) s = .next t ∧ t.actuator.startedAt = s.actuator.startedAt
      ∧ (s.vehicle.systemReady = true → s.vehicle.isParked = true → s.vehicle.isUnlocked = true →
          elapsed s.cfg now s.actuator.startedAt < s.cfg.fixedDuration →
          t.actuator.release = true ∧ ∀ b u, OutputEvent.writeReleaseOutput b u ∉ t.events.drop s.events.length)

/-- Under `LEVEL` a true rule activates an inactive output again, with a new start, whatever the rule was before
(43_actuation.md §2; the policy is the spec's own decision D9, the last place and the `NOW` of the event D10). -/
def Obligations.LevelPolicyRearmsWithoutAnEdge : Prop :=
  ∀ (s : State) (now : Timestamp) (btnN : Bool), 1 ≤ s.cfg.fixedDuration → s.cfg.rearmPolicy = .level →
    s.vehicle.systemReady = true → s.vehicle.isParked = true → s.vehicle.isUnlocked = true →
    s.actuator.release = false →
    ∃ t, exec (.act now btnN) s = .next t ∧ t.actuator.release = true ∧ t.actuator.startedAt = now
      ∧ t.events.getLast? = some (.writeReleaseOutput true now)

/-- No edge, no activation: an inactive output stays off, `started_at` stays, and no release event is emitted, when the
rule is false, or under `EDGE` when it was already true at the last `ACT` (43_actuation.md §2; D9). -/
def Obligations.NoEdgeNoActivation : Prop :=
  ∀ (s : State) (now : Timestamp) (btnN : Bool), s.actuator.release = false →
    ((s.vehicle.systemReady = false ∨ s.vehicle.isParked = false ∨ s.vehicle.isUnlocked = false)
      ∨ (s.cfg.rearmPolicy = .edge ∧ s.actuator.rulePrev = true)) →
    ∃ t, exec (.act now btnN) s = .next t ∧ t.actuator.release = false ∧ t.actuator.startedAt = s.actuator.startedAt
      ∧ ∀ b u, OutputEvent.writeReleaseOutput b u ∉ t.events.drop s.events.length

/-- Events are exactly the output changes of an `ACT` (43_actuation.md §2 "Edge-triggered output writes"; the order is the
spec's own decision D10): one event for each output that changed, bedlight first, each with the new value and the `NOW` of
the `ACT`; no other instruction emits, `RESET` included (70_reset_and_hazards.md §1, D19). -/
def Obligations.EventsAreExactlyTheOutputChanges : Prop :=
  ∀ (i : Instr) (s t : State), exec i s = .next t →
    (actNow i = none → t.events = s.events)
    ∧ ∀ now, actNow i = some now →
        t.events = s.events
          ++ (if t.actuator.bedlight = s.actuator.bedlight then [] else [.writeBedlight t.actuator.bedlight now])
          ++ (if t.actuator.release = s.actuator.release then [] else [.writeReleaseOutput t.actuator.release now])

/-- A host that follows the write events sees the ports: from power-up, over any instructions without `RESET`, the event
history replayed from both outputs off gives both ports (60_exceptions.md §4 "Both views agree"; the exception of `RESET` is
70_reset_and_hazards.md §2 "Reset and event-following hosts"). -/
def Obligations.EventHistoryReplaysToThePorts : Prop :=
  ∀ (c : Config) (is : List Instr) (t : State), (∀ i ∈ is, isReset i = false) →
    execAll is (State.powerUp c) = .next t →
    portsAfterEvents (false, false) t.events = (t.bedlightPort, t.releasePort)

/-- The hard invariant (60_exceptions.md R204), at the granularity of `ACT`: after every `ACT`, from every state, an active
release output has a true rule and is inside its window; and no instruction but `ACT` and `RESET` changes the output. -/
def Obligations.HardInvariantAfterEveryAct : Prop :=
  (∀ (s t : State) (now : Timestamp) (btnN : Bool), exec (.act now btnN) s = .next t → hardInvariant now t)
  ∧ ∀ (i : Instr) (s t : State), exec i s = .next t → actNow i = none → isReset i = false →
      t.actuator = s.actuator

/-- Bounded activation (43_actuation.md §3): from an active output started at `t0`, whatever instructions come, by the time an
`ACT` has been performed whose `NOW` is `FIXED_DURATION` or more after `t0` (modulo `2^W`) the output has been off. -/
def Obligations.ActivationIsBounded : Prop :=
  ∀ (s : State) (is : List Instr) (now : Timestamp) (btnN : Bool), s.actuator.release = true →
    s.cfg.fixedDuration ≤ elapsed s.cfg now s.actuator.startedAt →
    ∃ p q t, p ++ q = is ++ [.act now btnN] ∧ p ≠ [] ∧ execAll p s = .next t ∧ t.releasePort = false

/-- Bounded activation in the host's real clock: under duties H1 and H3 of 60_exceptions.md §5 (`ACT`s in clock order, less
than `2^W - FIXED_DURATION` apart), an output activated at clock value `t0` has been off by the time the host has presented
an `ACT` at or after `t0 + FIXED_DURATION`, however often the timestamp wrapped. -/
def Obligations.ActivationIsBoundedInRealTime : Prop :=
  ∀ (s : State) (is : List (Nat × Instr)) (t0 x : Nat) (now : Timestamp) (btnN : Bool), admissible s.cfg = true →
    s.actuator.release = true → carries s.cfg t0 s.actuator.startedAt →
    actsCarryClock s.cfg (is ++ [(x, .act now btnN)]) → actsCloseEnough s.cfg t0 (is ++ [(x, .act now btnN)]) →
    t0 + s.cfg.fixedDuration ≤ x →
    ∃ p q t, p ++ q = (is ++ [(x, Instr.act now btnN)]).map Prod.snd ∧ p ≠ [] ∧ execAll p s = .next t ∧ t.releasePort = false

/-- The activation law under `EDGE` (43_actuation.md §3): after any instructions from power-up, the release output is active
exactly when the rule was true at the last `ACT` since the last reset and every `ACT` of the unbroken run of true rules up
to it came inside the window that the run's first `ACT` opened; and then `started_at` is that first `ACT`'s `NOW`. -/
def Obligations.ActivationLawUnderEdge : Prop :=
  ∀ (c : Config) (is : List Instr) (t : State), admissible c = true → c.rearmPolicy = .edge →
    execAll is (State.powerUp c) = .next t →
    (t.releasePort = true ↔ ∃ t0, (trueRun (actLog [] is (State.powerUp c))).getLast? = some t0
      ∧ ∀ u ∈ trueRun (actLog [] is (State.powerUp c)), elapsed c u t0 < c.fixedDuration)
    ∧ (t.releasePort = true →
        (trueRun (actLog [] is (State.powerUp c))).getLast? = some t.actuator.startedAt)

/-- Re-arming needs the rule to go false (43_actuation.md §3): under `EDGE`, from an inactive output with the rule true at
the last `ACT`, over any instructions without `RESET` at whose every `ACT` the rule is true, the output stays off and no
release event is emitted. -/
def Obligations.RearmingNeedsTheRuleToGoFalse : Prop :=
  ∀ (s t : State) (is : List Instr), s.cfg.rearmPolicy = .edge → s.actuator.release = false →
    s.actuator.rulePrev = true → (∀ i ∈ is, isReset i = false) → (∀ e ∈ actLog [] is s, e.1 = true) →
    execAll is s = .next t →
    t.releasePort = false ∧ ∀ b u, OutputEvent.writeReleaseOutput b u ∉ t.events.drop s.events.length

/-- The button affects no output (43_actuation.md §1, corner cases): two `ACT`s that differ in `BTN_N` only leave states that
differ in `button_input` only. -/
def Obligations.ButtonNeverAffectsAnOutput : Prop :=
  ∀ (s : State) (now : Timestamp) (b b' : Bool), ∃ t t', exec (.act now b) s = .next t ∧ exec (.act now b') s = .next t'
    ∧ t' = { t with actuator := { t.actuator with buttonInput := !b' } }

/-- The battery value is never compared with anything (30_encoding.md R77): two states that differ at most in the battery
signal's values and in `RESULT` stay so under every instruction, and `RESULT` tells them apart only through `READ` of the
register SIG_BATT. -/
def Obligations.BatteryValueNeverMatters : Prop :=
  ∀ (i : Instr) (s t : State), sameButBattValue s t → ∃ s' t', exec i s = .next s' ∧ exec i t = .next t'
    ∧ sameButBattValue s' t' ∧ (i ≠ .read 0x04#8 → s'.result = t'.result)

/-- OR-readiness lets stale park and lock data activate the output (70_reset_and_hazards.md §2 "Readiness is an OR"): with
the park and lock flags set at any time in the past, a battery frame alone, then `READY` and `ACT`, activates it. -/
def Obligations.StaleParkAndLockStillActivate : Prop :=
  ∀ (s : State) (data : Payload) (now : Timestamp) (btnN : Bool), admissible s.cfg = true →
    s.vehicle.isParked = true → s.vehicle.isUnlocked = true → s.actuator.release = false →
    s.actuator.rulePrev = false →
    ∃ t, execAll [.frameBatt 8 data now, .ready now, .act now btnN] s = .next t
      ∧ t.releasePort = true ∧ t.actuator.startedAt = now
      ∧ t.vehicle.park = s.vehicle.park ∧ t.vehicle.lock = s.vehicle.lock

/-! ## Whole-machine rules -/

/-- The invariant holds at power-up under every configuration. -/
def Obligations.InvariantHoldsAtPowerUp : Prop := State.reset.Inv ∧ ∀ c : Config, (State.powerUp c).Inv

/-- Every step keeps the invariant: seen exactly when known, times inside `W` bits, the derived booleans equal to their
predicates of the current values, and under `EDGE` an active output only with the rule true at the last `ACT`. -/
def Obligations.EveryStepKeepsTheInvariant : Prop :=
  ∀ s t : State, s.Inv → step s = .next t → t.Inv

/-- The configuration is fixed for the block's lifetime: no step changes it (10_state.md §4). -/
def Obligations.ConfigurationNeverChanges : Prop :=
  ∀ (n : Nat) (s t : State), stepN n s = .next t → t.cfg = s.cfg

/-! ## The codec -/

/-- `EXTRACT` (40_codec.md §2): a request in range returns the field's bits `msb..msb-w+1` as a number, any other request
returns 0; the range reading is the spec's own decision D11. Nothing but `RESULT` changes. -/
def Obligations.ExtractReturnsTheField : Prop :=
  ∀ (s : State) (data : Payload) (msb wid : BitVec 8), exec (.extract data msb wid) s = .next
    { s with
      result :=
        if 1 ≤ wid.toNat ∧ wid.toNat ≤ 64 ∧ msb.toNat ≤ 63 ∧ wid.toNat ≤ msb.toNat + 1
          ∧ (s.cfg.extractRange = .msbPlusWidth → msb.toNat + wid.toNat ≤ 64)
        then BitVec.ofNat 64 (data.toNat / 2 ^ (msb.toNat + 1 - wid.toNat) % 2 ^ wid.toNat)
        else 0 }

/-- `SET` (40_codec.md §3): a request in range writes the low `w` bits of the value into the field's bits and keeps every
other bit; any other request returns the payload unchanged; the range reading and the out-of-range result are the spec's
own decisions D11, D12. Nothing but `RESULT` changes. -/
def Obligations.SetWritesOnlyTheField : Prop :=
  ∀ (s : State) (data : Payload) (msb wid : BitVec 8) (val : Word), ∃ t, exec (.set data msb wid val) s = .next t
    ∧ t = { s with result := t.result }
    ∧ ∀ j, t.result.getLsbD j =
      if (1 ≤ wid.toNat ∧ wid.toNat ≤ 64 ∧ msb.toNat ≤ 63 ∧ wid.toNat ≤ msb.toNat + 1
          ∧ (s.cfg.extractRange = .msbPlusWidth → msb.toNat + wid.toNat ≤ 64))
        ∧ msb.toNat + 1 - wid.toNat ≤ j ∧ j ≤ msb.toNat
      then val.getLsbD (j - (msb.toNat + 1 - wid.toNat)) else data.getLsbD j

/-- The round-trip law (40_codec.md R106), through the instructions and from any payload: `EXTRACT` of what `SET` returned
gives the value back, for every request in range and every value below `2^w`. -/
def Obligations.CodecRoundTrip : Prop :=
  ∀ (s : State) (data : Payload) (msb wid : BitVec 8) (val : Word),
    fieldValid s.cfg.extractRange msb.toNat wid.toNat = true → val.toNat < 2 ^ wid.toNat →
    ∃ t u, exec (.set data msb wid val) s = .next t ∧ exec (.extract t.result msb wid) t = .next u ∧ u.result = val

/-- The field isolation law (40_codec.md §4): two disjoint fields in range, set one after the other, both hold what was set,
modulo their widths. -/
def Obligations.DisjointFieldsAreIsolated : Prop :=
  ∀ (s : State) (data : Payload) (ma wa mb wb : BitVec 8) (a b : Word),
    fieldValid s.cfg.extractRange ma.toNat wa.toNat = true → fieldValid s.cfg.extractRange mb.toNat wb.toNat = true →
    (ma.toNat < mb.toNat + 1 - wb.toNat ∨ mb.toNat < ma.toNat + 1 - wa.toNat) →
    ∃ t u x y, exec (.set data ma wa a) s = .next t ∧ exec (.set t.result mb wb b) t = .next u
      ∧ exec (.extract u.result ma wa) u = .next x ∧ x.result.toNat = a.toNat % 2 ^ wa.toNat
      ∧ exec (.extract u.result mb wb) u = .next y ∧ y.result.toNat = b.toNat % 2 ^ wb.toNat

/-- `EXTRACT` and `SET` are pure and commute with every instruction (40_codec.md R105): the `RESULT` is the same from every
state of the block, nothing else changes, nothing is emitted or refused, and any other instruction does the same before
and after. -/
def Obligations.CodecCommutesWithEveryInstruction : Prop :=
  ∀ (i j : Instr) (s : State), (i.opcode = .extract ∨ i.opcode = .set) →
    ∃ r : Word, (∀ u : State, u.cfg = s.cfg → exec i u = .next { u with result := r })
      ∧ ∃ t, exec j s = .next t ∧ exec j { s with result := r } = .next t ∧ exec i t = .next { t with result := r }

/-! ## Observability -/

/-- Nothing is writable through the status space: `READ` changes nothing but `RESULT`, and so do `EXTRACT` and `SET`; block
state changes only through `FRAME`, `READY`, `ACT` and `RESET` (44_observability.md R195). -/
def Obligations.StatusSpaceIsReadOnly : Prop :=
  ∀ (i : Instr) (s : State), i.opcode ≠ .frame → i.opcode ≠ .ready → i.opcode ≠ .act → i.opcode ≠ .reset →
    ∃ t, exec i s = .next t ∧ t = { s with result := t.result }

/-- The layout of STATUS (44_observability.md §2; the layout is the spec's own decision D17). -/
def Obligations.StatusRegisterLayout : Prop :=
  ∀ s : State, ∃ t, exec (.read 0x00#8) s = .next t ∧ t = { s with result := t.result }
    ∧ t.result.getLsbD 0 = s.vehicle.systemReady ∧ t.result.getLsbD 1 = s.vehicle.bedlightOn
    ∧ t.result.getLsbD 2 = s.vehicle.isUnlocked ∧ t.result.getLsbD 3 = s.vehicle.isParked
    ∧ t.result.getLsbD 4 = s.actuator.bedlight ∧ t.result.getLsbD 5 = s.actuator.release
    ∧ t.result.getLsbD 6 = s.actuator.buttonInput ∧ t.result.getLsbD 7 = s.actuator.rulePrev
    ∧ t.result.getLsbD 8 = s.vehicle.lamp.seen ∧ t.result.getLsbD 9 = s.vehicle.lock.seen
    ∧ t.result.getLsbD 10 = s.vehicle.park.seen ∧ t.result.getLsbD 11 = s.vehicle.batt.seen
    ∧ ∀ j, 12 ≤ j → t.result.getLsbD j = false

/-- The layout of the four SIG registers (44_observability.md §2; the layout is the spec's own decision D17, the field of an
unknown value D7): `CUR` in bits 6..0, `CUR_VALID` in bit 7, `PREV` in bits 14..8, `PREV_VALID` in bit 15, 0 above. -/
def Obligations.SignalRegisterLayout : Prop :=
  ∀ (s : State) (cur prev : Option Nat) (addr : BitVec 8),
    (addr = 0x01#8 ∧ cur = s.vehicle.lamp.cur.map (·.toNat) ∧ prev = s.vehicle.lamp.prev.map (·.toNat)
      ∨ addr = 0x02#8 ∧ cur = s.vehicle.lock.cur.map (·.toNat) ∧ prev = s.vehicle.lock.prev.map (·.toNat)
      ∨ addr = 0x03#8 ∧ cur = s.vehicle.park.cur.map (·.toNat) ∧ prev = s.vehicle.park.prev.map (·.toNat)
      ∨ addr = 0x04#8 ∧ cur = s.vehicle.batt.cur.map (·.toNat) ∧ prev = s.vehicle.batt.prev.map (·.toNat)) →
    ∃ t, exec (.read addr) s = .next t ∧ t = { s with result := t.result }
      ∧ t.result.toNat = cur.getD 0 + cur.isSome.toNat * 2 ^ 7 + prev.getD 0 * 2 ^ 8 + prev.isSome.toNat * 2 ^ 15

/-- The time registers read as their timestamps, the reserved addresses as 0 (44_observability.md §2, the spec's own decision
D17). -/
def Obligations.TimeRegistersAndReservedAddresses : Prop :=
  ∀ (s : State) (addr : BitVec 8), 0x05 ≤ addr.toNat →
    exec (.read addr) s = .next
      { s with
        result :=
          if addr = 0x05#8 then s.vehicle.lamp.last else if addr = 0x06#8 then s.vehicle.lock.last
          else if addr = 0x07#8 then s.vehicle.park.last else if addr = 0x08#8 then s.vehicle.batt.last
          else if addr = 0x09#8 then s.actuator.startedAt else 0 }
end

