-- ==== Sys2Proof/Laws/Codec.lean ====
section
/-! SUPPORT. The codec bit by bit, and the four parsers as the byte formulas of 20_memory.md R58. -/

namespace Sys2Proof.Machine

/-- The bits of `mask(w)` (00_scope.md R10). -/
theorem mask_getLsbD (w j : Nat) : (mask w).getLsbD j = (decide (j < w) && decide (j < 64)) := by
  simp only [mask, BitVec.getLsbD_ofNat, Nat.testBit_two_pow_sub_one]
  exact Bool.and_comm _ _

/-- What the range rule says in numbers (40_codec.md R100). -/
theorem fieldValid_iff (r : ExtractRange) (msb w : Nat) :
    fieldValid r msb w = true ↔
      (1 ≤ w ∧ w ≤ 64 ∧ msb ≤ 63 ∧ w ≤ msb + 1) ∧ (r = .msbPlusWidth → msb + w ≤ 64) := by
  cases r <;> simp [fieldValid, fieldValidLowBit, and_assoc]

/-- The bits of `Field` for a request in range (40_codec.md R101). -/
theorem field_getLsbD {r : ExtractRange} {msb w : Nat} (h : fieldValid r msb w = true) (P : Payload) (j : Nat) :
    (field r P msb w).getLsbD j = (decide (j < w) && P.getLsbD (msb + 1 - w + j)) := by
  obtain ⟨⟨_, h64, _, _⟩, _⟩ := (fieldValid_iff r msb w).1 h
  simp only [field, h, if_true, BitVec.getLsbD_and, BitVec.getLsbD_ushiftRight, mask_getLsbD]
  by_cases hj : j < w
  · have : j < 64 := by omega
    simp [hj, this]
  · simp [hj]

/-- `Field` of a request out of range (40_codec.md R101). -/
theorem field_out_of_range {r : ExtractRange} {msb w : Nat} (h : fieldValid r msb w = false) (P : Payload) :
    field r P msb w = 0 := by
  simp [field, h]

/-- The bits of `SetField` for a request in range (40_codec.md R102, R103). -/
theorem setField_getLsbD {r : ExtractRange} {msb w : Nat} (h : fieldValid r msb w = true) (P : Payload) (v : Word)
    (j : Nat) :
    (setField r P msb w v).getLsbD j =
      if msb + 1 - w ≤ j ∧ j ≤ msb then v.getLsbD (j - (msb + 1 - w)) else P.getLsbD j := by
  obtain ⟨⟨h1, h64, h63, hle⟩, _⟩ := (fieldValid_iff r msb w).1 h
  simp only [setField, h, if_true, BitVec.getLsbD_or, BitVec.getLsbD_and, BitVec.getLsbD_not,
    BitVec.getLsbD_shiftLeft, mask_getLsbD]
  by_cases h64j : j < 64
  · by_cases hlo : msb + 1 - w ≤ j
    · by_cases hhi : j ≤ msb
      · have a : ¬ j < msb + 1 - w := by omega
        have b : j - (msb + 1 - w) < w := by omega
        have d : j - (msb + 1 - w) < 64 := by omega
        simp [h64j, hlo, hhi, a, b, d]
      · have a : ¬ j < msb + 1 - w := by omega
        have b : ¬ j - (msb + 1 - w) < w := by omega
        simp [h64j, hlo, hhi, a, b]
    · have a : j < msb + 1 - w := by omega
      simp [h64j, hlo, a]
  · have a : ¬ j ≤ msb := by omega
    have e : P.getLsbD j = false := BitVec.getLsbD_of_ge _ _ (by omega)
    simp [h64j, a, e]

/-- `SetField` into the zero payload: the value in the field's place and nothing else (30_encoding.md R91). -/
theorem setField_zero {r : ExtractRange} {msb w : Nat} (h : fieldValid r msb w = true) (v : BitVec w) :
    setField r 0 msb w (v.setWidth 64) = v.setWidth 64 <<< (msb + 1 - w) := by
  obtain ⟨⟨_, h64, h63, hle⟩, _⟩ := (fieldValid_iff r msb w).1 h
  apply BitVec.eq_of_getLsbD_eq
  intro j hj
  rw [setField_getLsbD h]
  by_cases hlo : msb + 1 - w ≤ j
  · have a : ¬ j < msb + 1 - w := by omega
    have hjj : j - (msb + 1 - w) < 64 := by omega
    by_cases hhi : j ≤ msb
    · simp [hlo, hhi, a, hj, hjj]
    · have e : v.getLsbD (j - (msb + 1 - w)) = false := BitVec.getLsbD_of_ge _ _ (by omega)
      simp [hhi, a, hj, e]
  · have a : j < msb + 1 - w := by omega
    simp [hlo, a]

/-- `SetField` of a request out of range (40_codec.md R104). -/
theorem setField_out_of_range {r : ExtractRange} {msb w : Nat} (h : fieldValid r msb w = false) (P : Payload)
    (v : Word) : setField r P msb w v = P := by
  simp [setField, h]

/-- Every descriptor of the table is in range under both readings (40_codec.md R100). -/
theorem fieldValid_descriptor (r : ExtractRange) (k : Signal) :
    fieldValid r (descriptor k).msb (descriptor k).width = true := by
  cases r <;> cases k <;> rfl

/-- Field `LAMP` inside byte 1 (20_memory.md R58). -/
theorem field_lamp (r : ExtractRange) (P : Payload) :
    (field r P 11 2).setWidth 2 = (payloadByte P 1 >>> 2).setWidth 2 := by
  have h : fieldValid r 11 2 = true := fieldValid_descriptor r .lamp
  ext j hj
  simp only [BitVec.getElem_setWidth, field_getLsbD h, payloadByte, BitVec.getLsbD_ushiftRight,
    BitVec.getLsbD_setWidth]
  interval_cases j <;> simp

/-- Field `LOCK` inside byte 4 (20_memory.md R58). -/
theorem field_lock (r : ExtractRange) (P : Payload) :
    (field r P 34 2).setWidth 2 = (payloadByte P 4 >>> 1).setWidth 2 := by
  have h : fieldValid r 34 2 = true := fieldValid_descriptor r .lock
  ext j hj
  simp only [BitVec.getElem_setWidth, field_getLsbD h, payloadByte, BitVec.getLsbD_ushiftRight,
    BitVec.getLsbD_setWidth]
  interval_cases j <;> simp

/-- Field `PARK` inside byte 3 (20_memory.md R58). -/
theorem field_park (r : ExtractRange) (P : Payload) :
    (field r P 31 4).setWidth 4 = (payloadByte P 3 >>> 4).setWidth 4 := by
  have h : fieldValid r 31 4 = true := fieldValid_descriptor r .park
  ext j hj
  simp only [BitVec.getElem_setWidth, field_getLsbD h, payloadByte, BitVec.getLsbD_ushiftRight,
    BitVec.getLsbD_setWidth]
  interval_cases j <;> simp

/-- Field `BATT` inside byte 2 (20_memory.md R58). -/
theorem field_batt (r : ExtractRange) (P : Payload) :
    (field r P 22 7).setWidth 7 = (payloadByte P 2).setWidth 7 := by
  have h : fieldValid r 22 7 = true := fieldValid_descriptor r .batt
  ext j hj
  simp only [BitVec.getElem_setWidth, field_getLsbD h, payloadByte, BitVec.getLsbD_ushiftRight,
    BitVec.getLsbD_setWidth]
  interval_cases j <;> simp

/-- `PARSE_LAMP` of a frame with the lamp identifier (41_frame_parsers.md R121, R122). -/
theorem parseLamp_own (c : Config) (len : Fin 9) (data : Payload) (ts : Timestamp) :
    parseLamp c ⟨c.idLamp, len, data, ts⟩ =
      if len.val = 8 then ⟨true, (payloadByte data 1 >>> 2).setWidth 2⟩ else ⟨false, 0⟩ := by
  by_cases h : len.val = 8 <;> simp [parseLamp, parseSignal, Config.idOf, descriptor, field_lamp, h]

/-- `PARSE_LOCK` of a frame with the lock identifier (41_frame_parsers.md R121, R123). -/
theorem parseLock_own (c : Config) (len : Fin 9) (data : Payload) (ts : Timestamp) :
    parseLock c ⟨c.idLock, len, data, ts⟩ =
      if len.val = 8 then ⟨true, (payloadByte data 4 >>> 1).setWidth 2⟩ else ⟨false, 0⟩ := by
  by_cases h : len.val = 8 <;> simp [parseLock, parseSignal, Config.idOf, descriptor, field_lock, h]

/-- `PARSE_PARK` of a frame with the park identifier (41_frame_parsers.md R121, R124). -/
theorem parsePark_own (c : Config) (len : Fin 9) (data : Payload) (ts : Timestamp) :
    parsePark c ⟨c.idPark, len, data, ts⟩ =
      if len.val = 8 then ⟨true, (payloadByte data 3 >>> 4).setWidth 4⟩ else ⟨false, 0⟩ := by
  by_cases h : len.val = 8 <;> simp [parsePark, parseSignal, Config.idOf, descriptor, field_park, h]

/-- `PARSE_BATT` of a frame with the battery identifier (41_frame_parsers.md R121, R125). -/
theorem parseBatt_own (c : Config) (len : Fin 9) (data : Payload) (ts : Timestamp) :
    parseBatt c ⟨c.idBatt, len, data, ts⟩ =
      if len.val = 8 then ⟨true, (payloadByte data 2).setWidth 7⟩ else ⟨false, 0⟩ := by
  by_cases h : len.val = 8 <;> simp [parseBatt, parseSignal, Config.idOf, descriptor, field_batt, h]

end Sys2Proof.Machine
end

