-- ==== Sys2Proof/Laws/Time.lean ====
section
/-! SUPPORT. Timestamps modulo `2^W` (00_scope.md R11). -/

namespace Sys2Proof

/-- A wrapped time as a number. -/
theorem wrapTime_toNat {c : Config} (hW : c.tsWidth ≤ 64) (t : Timestamp) :
    (wrapTime c t).toNat = t.toNat % 2 ^ c.tsWidth := by
  have h : t.toNat % 2 ^ c.tsWidth < 2 ^ 64 :=
    (Nat.mod_lt _ (Nat.two_pow_pos _)).trans_le (Nat.pow_le_pow_right (by norm_num) hW)
  simp only [wrapTime, BitVec.toNat_ofNat, Nat.mod_eq_of_lt h]

/-- What a `W`-bit bus carries fits it. -/
theorem timeFits_wrapTime (c : Config) (t : Timestamp) : timeFits c (wrapTime c t) = true := by
  have h := Nat.mod_lt t.toNat (Nat.two_pow_pos c.tsWidth)
  simp only [timeFits, wrapTime, BitVec.toNat_ofNat, decide_eq_true_eq]
  exact (Nat.mod_le _ _).trans_lt h

/-- A time that fits the bus goes through it unchanged. -/
theorem wrapTime_of_fits {c : Config} {t : Timestamp} (h : timeFits c t = true) : wrapTime c t = t := by
  simp only [timeFits, decide_eq_true_eq] at h
  simp [wrapTime, Nat.mod_eq_of_lt h]

/-- Time 0 fits every bus. -/
theorem timeFits_zero (c : Config) : timeFits c 0 = true := by
  simp [timeFits]

/-- No time has passed since `now`. -/
@[simp] theorem elapsed_self (c : Config) (t : Timestamp) : elapsed c t t = 0 := by
  simp [elapsed]

/-- `⊖` is the integer difference modulo `2^W` (00_scope.md R11). -/
theorem elapsed_eq_int {c : Config} (hW : c.tsWidth ≤ 64) (a b : Timestamp) :
    (elapsed c a b : Int) = ((a.toNat : Int) - b.toNat) % 2 ^ c.tsWidth := by
  have hb := b.isLt
  have hdvd : ((2 : Int) ^ c.tsWidth) ∣ 18446744073709551616 := by
    have h : ((2 : Int) ^ c.tsWidth) ∣ 2 ^ 64 := pow_dvd_pow 2 hW
    simpa using h
  have e : ((18446744073709551616 - b.toNat : Nat) : Int) + a.toNat
      = ((a.toNat : Int) - b.toNat) + 18446744073709551616 := by omega
  simp only [elapsed, BitVec.toNat_sub]
  push_cast
  rw [e, Int.emod_emod_of_dvd _ hdvd, Int.add_emod, Int.emod_eq_zero_of_dvd hdvd]
  simp

/-- Between two clock values less than `2^W` apart, `⊖` of what the buses carry is the true difference. -/
theorem elapsed_of_clocks {c : Config} (hW : c.tsWidth ≤ 64) {a b : Timestamp} {x y : Nat}
    (ha : a.toNat = x % 2 ^ c.tsWidth) (hb : b.toNat = y % 2 ^ c.tsWidth) (hle : y ≤ x)
    (hlt : x - y < 2 ^ c.tsWidth) : elapsed c a b = x - y := by
  have h := elapsed_eq_int hW a b
  rw [ha, hb] at h
  push_cast at h
  rw [← Int.sub_emod] at h
  have e : ((x : Int) - y) = ((x - y : Nat) : Int) := by push_cast [Nat.cast_sub hle]; ring
  rw [e, Int.emod_eq_of_lt (by positivity) (by exact_mod_cast hlt)] at h
  exact_mod_cast h

end Sys2Proof
end

