-- ==== Sys2Proof/Laws/Decode.lean ====
section
/-! SUPPORT. The opcode map, the classification of identifiers, and configuration admission in numbers. -/

namespace Sys2Proof

/-- The opcode map read back (30_encoding.md R82). -/
@[simp] theorem decodeOp_encodeOp (o : Opcode) : decodeOp (encodeOp o) = some o := by cases o <;> rfl

/-- A code decodes to an opcode exactly when it is that opcode's code (30_encoding.md R82). -/
theorem decodeOp_eq_some {op : BitVec 4} {o : Opcode} : decodeOp op = some o ↔ op = encodeOp o := by
  constructor
  · intro h
    simp only [decodeOp] at h
    split_ifs at h with h1 h2 h3 h4 h5 h6 h7 <;> (cases h; assumption)
  · rintro rfl
    exact decodeOp_encodeOp o

/-- The reserved codes (30_encoding.md R84). -/
theorem decodeOp_eq_none {op : BitVec 4} : decodeOp op = none ↔ op.toNat = 0 ∨ 8 ≤ op.toNat := by
  revert op; decide

/-- The classification and the predicate agree (41_frame_parsers.md R120). -/
theorem classify_eq_none {c : Config} {id : Identifier} : classify c id = none ↔ isRecognized c id = false := by
  simp only [classify, isRecognized]
  split_ifs with h1 h2 h3 h4 <;> simp_all

/-- A classified identifier is its signal's (30_encoding.md R83). -/
theorem idOf_of_classify {c : Config} {id : Identifier} {k : Signal} (h : classify c id = some k) : id = c.idOf k := by
  simp only [classify] at h
  split_ifs at h with h1 h2 h3 h4 <;> (cases h; assumption)

/-- The row `FRAME.k` matches exactly `OP = 0x1` with the signal's identifier (30_encoding.md R83). -/
theorem frameRow_hits {c : Config} {k : Signal} {t : Transaction} :
    (frameRow c k).hits t = true ↔ t.op = 0x1#4 ∧ t.id = c.idOf k := by
  simp only [TableRow.hits, frameRow, Transaction.decodeKey]
  generalize c.idOf k = x
  generalize t.id = y
  generalize t.op = z
  constructor
  · intro h
    have e := eq_of_beq h
    constructor <;> apply BitVec.eq_of_getLsbD_eq <;> intro j hj
    · have := congrArg (fun v => v.getLsbD j) e
      interval_cases j <;> simpa using this
    · have := congrArg (fun v => v.getLsbD (j + 4)) e
      interval_cases j <;> simpa using this
  · rintro ⟨rfl, rfl⟩
    rw [beq_iff_eq]
    apply BitVec.eq_of_getLsbD_eq
    intro j hj
    interval_cases j <;> simp

/-- The row of `FRAME` matches exactly `OP = 0x1` (30_encoding.md R82). -/
theorem opRow_frame_hits {t : Transaction} : (opRow .frame).hits t = true ↔ t.op = 0x1#4 := by
  simp only [TableRow.hits, opRow, Transaction.decodeKey]
  generalize t.id = y
  generalize t.op = z
  constructor
  · intro h
    have e := eq_of_beq h
    apply BitVec.eq_of_getLsbD_eq
    intro j hj
    have := congrArg (fun v => v.getLsbD j) e
    interval_cases j <;> simpa [encodeOp] using this
  · rintro rfl
    rw [beq_iff_eq]
    apply BitVec.eq_of_getLsbD_eq
    intro j hj
    interval_cases j <;> simp [encodeOp]

namespace Machine

/-- Configuration admission in numbers (70_reset_and_hazards.md R234). -/
theorem admissible_iff (c : Config) : admissible c = true ↔
    (1 ≤ c.tsWidth ∧ c.tsWidth ≤ 64)
      ∧ (1 ≤ c.readinessTimeout ∧ c.readinessTimeout < 2 ^ (c.tsWidth - 1))
      ∧ (1 ≤ c.fixedDuration ∧ c.fixedDuration < 2 ^ (c.tsWidth - 1))
      ∧ (c.idLamp ≠ c.idLock ∧ c.idLamp ≠ c.idPark ∧ c.idLamp ≠ c.idBatt)
      ∧ (c.idLock ≠ c.idPark ∧ c.idLock ≠ c.idBatt) ∧ c.idPark ≠ c.idBatt := by
  simp only [admissible, widthAdmissible, durationAdmissible, idsDistinct, Bool.and_eq_true, decide_eq_true_eq,
    and_assoc]

/-- The timestamp width of an admissible configuration. -/
theorem admissible_width {c : Config} (h : admissible c = true) : 1 ≤ c.tsWidth ∧ c.tsWidth ≤ 64 :=
  ((admissible_iff c).1 h).1

/-- Under distinct identifiers each identifier classifies as its own signal (30_encoding.md R83). -/
theorem classify_idOf {c : Config} (h : admissible c = true) (k : Signal) : classify c (c.idOf k) = some k := by
  obtain ⟨-, -, -, ⟨h1, h2, h3⟩, ⟨h4, h5⟩, h6⟩ := (admissible_iff c).1 h
  cases k <;> simp [classify, Config.idOf, h1.symm, h2.symm, h3.symm, h4.symm, h5.symm, h6.symm]

end Machine

end Sys2Proof
end

