-- ==== Sys2Proof/Laws/State.lean ====
section
/-! SUPPORT. One lemma per field per update of the state, so that no later proof unfolds a record update. -/

namespace Sys2Proof.Machine

@[simp] theorem State.withResult_cfg (s : State) (r : Word) : (s.withResult r).cfg = s.cfg := rfl
@[simp] theorem State.withResult_vehicle (s : State) (r : Word) : (s.withResult r).vehicle = s.vehicle := rfl
@[simp] theorem State.withResult_actuator (s : State) (r : Word) : (s.withResult r).actuator = s.actuator := rfl
@[simp] theorem State.withResult_result (s : State) (r : Word) : (s.withResult r).result = r := rfl
@[simp] theorem State.withResult_events (s : State) (r : Word) : (s.withResult r).events = s.events := rfl
@[simp] theorem State.withResult_inbox (s : State) (r : Word) : (s.withResult r).inbox = s.inbox := rfl

@[simp] theorem State.emit_cfg (s : State) (es : List OutputEvent) : (s.emit es).cfg = s.cfg := rfl
@[simp] theorem State.emit_vehicle (s : State) (es : List OutputEvent) : (s.emit es).vehicle = s.vehicle := rfl
@[simp] theorem State.emit_actuator (s : State) (es : List OutputEvent) : (s.emit es).actuator = s.actuator := rfl
@[simp] theorem State.emit_result (s : State) (es : List OutputEvent) : (s.emit es).result = s.result := rfl
@[simp] theorem State.emit_events (s : State) (es : List OutputEvent) : (s.emit es).events = s.events ++ es := rfl
@[simp] theorem State.emit_inbox (s : State) (es : List OutputEvent) : (s.emit es).inbox = s.inbox := rfl

@[simp] theorem State.presentNext_cfg (s : State) (t : Transaction) : (s.presentNext t).cfg = s.cfg := rfl
@[simp] theorem State.presentNext_vehicle (s : State) (t : Transaction) : (s.presentNext t).vehicle = s.vehicle := rfl
@[simp] theorem State.presentNext_actuator (s : State) (t : Transaction) : (s.presentNext t).actuator = s.actuator := rfl
@[simp] theorem State.presentNext_result (s : State) (t : Transaction) : (s.presentNext t).result = s.result := rfl
@[simp] theorem State.presentNext_events (s : State) (t : Transaction) : (s.presentNext t).events = s.events := rfl
@[simp] theorem State.presentNext_inbox (s : State) (t : Transaction) : (s.presentNext t).inbox = t :: s.inbox := rfl

/-- Taking back what was just presented. -/
theorem fetch_presentNext (s : State) (t : Transaction) : fetch (s.presentNext t) = some (t, s) := rfl

variable {w : Nat}

@[simp] theorem SignalRegs.accept_cur (r : SignalRegs w) (v : BitVec w) (ts : Timestamp) :
    (r.accept v ts).cur = some v := rfl
@[simp] theorem SignalRegs.accept_prev (r : SignalRegs w) (v : BitVec w) (ts : Timestamp) :
    (r.accept v ts).prev = r.cur := rfl
@[simp] theorem SignalRegs.accept_last (r : SignalRegs w) (v : BitVec w) (ts : Timestamp) :
    (r.accept v ts).last = ts := rfl
@[simp] theorem SignalRegs.accept_seen (r : SignalRegs w) (v : BitVec w) (ts : Timestamp) :
    (r.accept v ts).seen = true := rfl

@[simp] theorem SignalRegs.reset_cur : (SignalRegs.reset w).cur = none := rfl
@[simp] theorem SignalRegs.reset_prev : (SignalRegs.reset w).prev = none := rfl
@[simp] theorem SignalRegs.reset_last : (SignalRegs.reset w).last = 0 := rfl
@[simp] theorem SignalRegs.reset_seen : (SignalRegs.reset w).seen = false := rfl

@[simp] theorem VehicleState.reset_lamp : VehicleState.reset.lamp = SignalRegs.reset 2 := rfl
@[simp] theorem VehicleState.reset_lock : VehicleState.reset.lock = SignalRegs.reset 2 := rfl
@[simp] theorem VehicleState.reset_park : VehicleState.reset.park = SignalRegs.reset 4 := rfl
@[simp] theorem VehicleState.reset_batt : VehicleState.reset.batt = SignalRegs.reset 7 := rfl
@[simp] theorem VehicleState.reset_bedlightOn : VehicleState.reset.bedlightOn = false := rfl
@[simp] theorem VehicleState.reset_isUnlocked : VehicleState.reset.isUnlocked = false := rfl
@[simp] theorem VehicleState.reset_isParked : VehicleState.reset.isParked = false := rfl
@[simp] theorem VehicleState.reset_systemReady : VehicleState.reset.systemReady = false := rfl

@[simp] theorem ActuatorState.reset_bedlight : ActuatorState.reset.bedlight = false := rfl
@[simp] theorem ActuatorState.reset_release : ActuatorState.reset.release = false := rfl
@[simp] theorem ActuatorState.reset_startedAt : ActuatorState.reset.startedAt = 0 := rfl
@[simp] theorem ActuatorState.reset_buttonInput : ActuatorState.reset.buttonInput = false := rfl
@[simp] theorem ActuatorState.reset_rulePrev : ActuatorState.reset.rulePrev = false := rfl

@[simp] theorem State.powerUp_cfg (c : Config) : (State.powerUp c).cfg = c := rfl
@[simp] theorem State.powerUp_vehicle (c : Config) : (State.powerUp c).vehicle = VehicleState.reset := rfl
@[simp] theorem State.powerUp_actuator (c : Config) : (State.powerUp c).actuator = ActuatorState.reset := rfl
@[simp] theorem State.powerUp_result (c : Config) : (State.powerUp c).result = 0 := rfl
@[simp] theorem State.powerUp_events (c : Config) : (State.powerUp c).events = [] := rfl
@[simp] theorem State.powerUp_inbox (c : Config) : (State.powerUp c).inbox = [] := rfl

@[simp] theorem VehicleState.updateLamp_invalid (v : VehicleState) (x : BitVec 2) (ts : Timestamp) :
    v.updateLamp ⟨false, x⟩ ts = v := rfl
@[simp] theorem VehicleState.updateLock_invalid (v : VehicleState) (x : BitVec 2) (ts : Timestamp) :
    v.updateLock ⟨false, x⟩ ts = v := rfl
@[simp] theorem VehicleState.updatePark_invalid (v : VehicleState) (x : BitVec 4) (ts : Timestamp) :
    v.updatePark ⟨false, x⟩ ts = v := rfl
@[simp] theorem VehicleState.updateBatt_invalid (v : VehicleState) (x : BitVec 7) (ts : Timestamp) :
    v.updateBatt ⟨false, x⟩ ts = v := rfl

theorem VehicleState.updateLamp_valid (v : VehicleState) (x : BitVec 2) (ts : Timestamp) :
    v.updateLamp ⟨true, x⟩ ts = { v with lamp := v.lamp.accept x ts, bedlightOn := lampActive x.toNat } := rfl
theorem VehicleState.updateLock_valid (v : VehicleState) (x : BitVec 2) (ts : Timestamp) :
    v.updateLock ⟨true, x⟩ ts = { v with lock := v.lock.accept x ts, isUnlocked := unlocked x.toNat } := rfl
theorem VehicleState.updatePark_valid (v : VehicleState) (x : BitVec 4) (ts : Timestamp) :
    v.updatePark ⟨true, x⟩ ts = { v with park := v.park.accept x ts, isParked := parked x.toNat } := rfl
theorem VehicleState.updateBatt_valid (v : VehicleState) (x : BitVec 7) (ts : Timestamp) :
    v.updateBatt ⟨true, x⟩ ts = { v with batt := v.batt.accept x ts } := rfl

end Sys2Proof.Machine
end

