-- ==== Sys2Proof/Laws/Exec.lean ====
section
/-! SUPPORT. Each meaning once: the next state of every instruction, and what an `ACT` leaves in the release output. Later
proofs cite these and unfold no meaning. -/

namespace Sys2Proof.Machine

@[simp] theorem exec_frameLamp (len : Fin 9) (data : Payload) (ts : Timestamp) (s : State) :
    exec (.frameLamp len data ts) s = .next { s.withResult 0 with
      vehicle := if len.val = 8 then
          { s.vehicle with lamp := s.vehicle.lamp.accept ((payloadByte data 1 >>> 2).setWidth 2) ts,
                           bedlightOn := lampActive ((payloadByte data 1 >>> 2).setWidth 2).toNat }
        else s.vehicle } := by
  by_cases h : len.val = 8 <;> simp [exec, execFrameLamp, parseLamp_own, h, VehicleState.updateLamp_valid]

@[simp] theorem exec_frameLock (len : Fin 9) (data : Payload) (ts : Timestamp) (s : State) :
    exec (.frameLock len data ts) s = .next { s.withResult 0 with
      vehicle := if len.val = 8 then
          { s.vehicle with lock := s.vehicle.lock.accept ((payloadByte data 4 >>> 1).setWidth 2) ts,
                           isUnlocked := unlocked ((payloadByte data 4 >>> 1).setWidth 2).toNat }
        else s.vehicle } := by
  by_cases h : len.val = 8 <;> simp [exec, execFrameLock, parseLock_own, h, VehicleState.updateLock_valid]

@[simp] theorem exec_framePark (len : Fin 9) (data : Payload) (ts : Timestamp) (s : State) :
    exec (.framePark len data ts) s = .next { s.withResult 0 with
      vehicle := if len.val = 8 then
          { s.vehicle with park := s.vehicle.park.accept ((payloadByte data 3 >>> 4).setWidth 4) ts,
                           isParked := parked ((payloadByte data 3 >>> 4).setWidth 4).toNat }
        else s.vehicle } := by
  by_cases h : len.val = 8 <;> simp [exec, execFramePark, parsePark_own, h, VehicleState.updatePark_valid]

@[simp] theorem exec_frameBatt (len : Fin 9) (data : Payload) (ts : Timestamp) (s : State) :
    exec (.frameBatt len data ts) s = .next { s.withResult 0 with
      vehicle := if len.val = 8 then
          { s.vehicle with batt := s.vehicle.batt.accept ((payloadByte data 2).setWidth 7) ts }
        else s.vehicle } := by
  by_cases h : len.val = 8 <;> simp [exec, execFrameBatt, parseBatt_own, h, VehicleState.updateBatt_valid]

@[simp] theorem exec_frameOther (id : Identifier) (len : Fin 9) (data : Payload) (ts : Timestamp) (s : State) :
    exec (.frameOther id len data ts) s = .next (s.withResult 0) := rfl

@[simp] theorem exec_ready (now : Timestamp) (s : State) :
    exec (.ready now) s =
      .next { s.withResult 0 with vehicle := { s.vehicle with systemReady := anyFresh s.cfg s.vehicle now } } := rfl

@[simp] theorem exec_act (now : Timestamp) (btnN : Bool) (s : State) :
    exec (.act now btnN) s =
      .next { (s.withResult 0).emit (writeEvents s.actuator (actuatorAfter s.cfg s.vehicle s.actuator now btnN) now) with
        actuator := actuatorAfter s.cfg s.vehicle s.actuator now btnN } := rfl

@[simp] theorem exec_extract (data : Payload) (msb wid : BitVec 8) (s : State) :
    exec (.extract data msb wid) s = .next (s.withResult (field s.cfg.extractRange data msb.toNat wid.toNat)) := rfl

@[simp] theorem exec_set (data : Payload) (msb wid : BitVec 8) (val : Word) (s : State) :
    exec (.set data msb wid val) s =
      .next (s.withResult (setField s.cfg.extractRange data msb.toNat wid.toNat val)) := rfl

@[simp] theorem exec_read (addr : BitVec 8) (s : State) :
    exec (.read addr) s = .next (s.withResult (statusReg s addr)) := rfl

@[simp] theorem exec_reset (s : State) :
    exec .reset s = .next { s.withResult 0 with vehicle := VehicleState.reset, actuator := ActuatorState.reset } := rfl

/-! ## Frames as transactions, and freshness -/

/-- What the transaction of a frame decodes to (30_encoding.md R83). -/
theorem decode_encodeFrame (c : Config) (id : Identifier) (len : Fin 9) (data : Payload) (ts : Timestamp) :
    decode c (encodeFrame id len data ts) = .ok (frameInstr (classify c id) id len data (wrapTime c ts)) := by
  have hlen : (encodeFrame id len data ts).len.toNat = len.val := by
    show (BitVec.ofNat 4 len.val).toNat = len.val
    simp only [BitVec.toNat_ofNat]
    omega
  have hop : decodeOp (encodeFrame id len data ts).op = some .frame := rfl
  simp only [decode, hop, decodeFrame, hlen, len.isLt, dif_pos]
  rfl

/-- The transaction of `FRAME.k v`, with its payload written out (30_encoding.md R91). -/
theorem frameShort_eq {c : Config} {k : Signal} {w : Nat} (hw : (descriptor k).width = w) (v : BitVec w) (ts : Timestamp) :
    frameShort c k (v.setWidth 64) ts =
      encodeFrame (c.idOf k) 8 (v.setWidth 64 <<< ((descriptor k).msb + 1 - w)) ts := by
  subst hw
  rw [frameShort, setField_zero (fieldValid_descriptor _ k)]

/-- Decoding one list of transactions after another. -/
theorem decodeAll_append {c : Config} {a b : List Transaction} {is js : List Instr} (ha : decodeAll c a = .ok is)
    (hb : decodeAll c b = .ok js) : decodeAll c (a ++ b) = .ok (is ++ js) := by
  induction a generalizing is with
  | nil =>
    cases ha
    exact hb
  | cons t ts ih =>
    simp only [decodeAll] at ha
    split at ha
    · cases ha
    · rename_i i hi
      split at ha
      · cases ha
      · rename_i is' his
        cases ha
        simp [decodeAll, hi, ih his]

/-- The freshness test under both policies (42_aggregator.md R148). -/
theorem fresh_iff {w : Nat} (c : Config) (q : SignalRegs w) (now : Timestamp) :
    fresh c q now = true ↔ (c.initFreshness = .neverFresh → q.seen = true) ∧ elapsed c now q.last < c.readinessTimeout := by
  cases hc : c.initFreshness <;> simp [fresh, hc, withinWindow]

/-! ## The actuation step -/

@[simp] theorem eventIf_true (e : OutputEvent) : eventIf true e = [e] := rfl
@[simp] theorem eventIf_false (e : OutputEvent) : eventIf false e = [] := rfl

/-- An event is among those of one output exactly when the output changed and it is that event. -/
@[simp] theorem mem_eventIf (b : Bool) (e e' : OutputEvent) : e' ∈ eventIf b e ↔ b = true ∧ e' = e := by
  cases b <;> simp

/-- `eventIf` on a comparison of values. -/
theorem eventIf_bne (a b : Bool) (e : OutputEvent) : eventIf (a != b) e = if a = b then [] else [e] := by
  cases a <;> cases b <;> rfl

section Actuation
variable (c : Config) (v : VehicleState) (a : ActuatorState) (now : Timestamp) (btnN : Bool)

@[simp] theorem actuatorAfter_bedlight : (actuatorAfter c v a now btnN).bedlight = v.bedlightOn := rfl
@[simp] theorem actuatorAfter_release : (actuatorAfter c v a now btnN).release = releaseAfter c v a now := rfl
@[simp] theorem actuatorAfter_startedAt : (actuatorAfter c v a now btnN).startedAt = startedAtAfter c v a now := rfl
@[simp] theorem actuatorAfter_buttonInput : (actuatorAfter c v a now btnN).buttonInput = !btnN := rfl
@[simp] theorem actuatorAfter_rulePrev : (actuatorAfter c v a now btnN).rulePrev = activationRule v := rfl

/-- An active output is never activated again (43_actuation.md R177). -/
theorem activates_of_active (h : a.release = true) : activates c v a = false := by simp [activates, h]

/-- An active output keeps its start (43_actuation.md R177). -/
theorem startedAtAfter_of_active (h : a.release = true) : startedAtAfter c v a now = a.startedAt := by
  simp [startedAtAfter, activates_of_active c v a h]

/-- From an active output: on exactly when the rule holds inside the window (43_actuation.md R175, R176). -/
theorem releaseAfter_of_active (h : a.release = true) :
    releaseAfter c v a now = (activationRule v && !windowOver c now a.startedAt) := by
  have hs := startedAtAfter_of_active c v a now h
  have ha := activates_of_active c v a h
  cases hr : activationRule v <;> cases hw : windowOver c now a.startedAt <;>
    simp [releaseAfter, releaseAfterRule, hs, ha, h, hr, hw]

/-- From an inactive output, with `FIXED_DURATION ≥ 1`: on exactly when the rule has an edge (43_actuation.md R174). -/
theorem releaseAfter_of_inactive (hd : 1 ≤ c.fixedDuration) (h : a.release = false) :
    releaseAfter c v a now = risingEdge c a (activationRule v) := by
  have hw : windowOver c now now = false := by simp [windowOver]; omega
  cases he : risingEdge c a (activationRule v) <;>
    simp [releaseAfter, releaseAfterRule, startedAtAfter, activates, h, he, hw]

end Actuation

end Sys2Proof.Machine
end

