-- ==== Sys2Proof/Laws/PerInstr.lean ====
section
/-! SUPPORT. Statements for all instructions, one lemma per constructor. -/

namespace Sys2Proof.Laws.EncodesItsOpcode

/-- The encoder drives the code of the instruction's own row, and that code decodes to it (30_encoding.md R82). -/
def Statement (i : Instr) : Prop :=
  ∀ c : Config, (encode c i).op = encodeOp i.opcode ∧ decodeOp (encode c i).op = some i.opcode

theorem frameLamp (len : Fin 9) (data : Payload) (ts : Timestamp) : Statement (.frameLamp len data ts) :=
  fun _ => ⟨rfl, rfl⟩
theorem frameLock (len : Fin 9) (data : Payload) (ts : Timestamp) : Statement (.frameLock len data ts) :=
  fun _ => ⟨rfl, rfl⟩
theorem framePark (len : Fin 9) (data : Payload) (ts : Timestamp) : Statement (.framePark len data ts) :=
  fun _ => ⟨rfl, rfl⟩
theorem frameBatt (len : Fin 9) (data : Payload) (ts : Timestamp) : Statement (.frameBatt len data ts) :=
  fun _ => ⟨rfl, rfl⟩
theorem frameOther (id : Identifier) (len : Fin 9) (data : Payload) (ts : Timestamp) :
    Statement (.frameOther id len data ts) := fun _ => ⟨rfl, rfl⟩
theorem ready (now : Timestamp) : Statement (.ready now) := fun _ => ⟨rfl, rfl⟩
theorem act (now : Timestamp) (btnN : Bool) : Statement (.act now btnN) := fun _ => ⟨rfl, rfl⟩
theorem extract (data : Payload) (msb wid : BitVec 8) : Statement (.extract data msb wid) := fun _ => ⟨rfl, rfl⟩
theorem set (data : Payload) (msb wid : BitVec 8) (val : Word) : Statement (.set data msb wid val) :=
  fun _ => ⟨rfl, rfl⟩
theorem read (addr : BitVec 8) : Statement (.read addr) := fun _ => ⟨rfl, rfl⟩
theorem reset : Statement .reset := fun _ => ⟨rfl, rfl⟩

end Sys2Proof.Laws.EncodesItsOpcode
end

