-- ==== Sys2Proof/Laws/Status.lean ====
section
/-! SUPPORT. The pieces of a status register bit by bit (44_observability.md R191, R192). -/

namespace Sys2Proof.Machine

/-- A one-bit field has its bit in its place and no other. -/
theorem flagBit_getLsbD (b : Bool) (i j : Nat) :
    (flagBit b i).getLsbD j = (decide (j = i) && decide (j < 64) && b) := by
  simp only [flagBit, BitVec.getLsbD_shiftLeft, BitVec.getLsbD_setWidth, BitVec.getLsbD_ofBool]
  by_cases h : j = i
  · subst h; by_cases h64 : j < 64 <;> simp [h64]
  · by_cases hi : j < i
    · simp [h, hi]
    · have : ¬ (j - i = 0) := by omega
      simp [h, this]

/-- Bit `j` of fields put together is bit `j` of one of them. -/
@[simp] theorem orFields_getLsbD_nil (j : Nat) : (orFields []).getLsbD j = false := by simp [orFields]

@[simp] theorem orFields_getLsbD_cons (f : Word) (fs : List Word) (j : Nat) :
    (orFields (f :: fs)).getLsbD j = (f.getLsbD j || (orFields fs).getLsbD j) := by simp [orFields]

/-- The value field of an unknown signal is 0. -/
theorem codeField_none_getLsbD (w j : Nat) : (codeField (none : Option (BitVec w))).getLsbD j = false := by
  simp [codeField]

/-- The value field of a known signal is its code, zero-extended. -/
theorem codeField_some_getLsbD {w : Nat} (x : BitVec w) (j : Nat) :
    (codeField (some x)).getLsbD j = (decide (j < 7) && x.getLsbD j) := by
  simp only [codeField, BitVec.getLsbD_setWidth]
  by_cases h : j < 7
  · have : j < 64 := by omega
    simp [h, this]
  · simp [h]

end Sys2Proof.Machine
end

