-- ==== Sys2Proof/Tests/Slice0.lean ====
section
/-! SUPPORT. The model's own tests, each expected value taken from 95_test_vectors.md, and for every statement of the
obligations that has hypotheses a concrete witness that meets them. -/

namespace Sys2Proof.Tests

open Sys2Proof.Machine

/-! ## Helpers -/

/-- The state after some instructions. -/
def after (is : List Instr) (s : State) : Option State := nextState (execAll is s)

/-- The value an instruction puts on `RESULT`. -/
def resultOf (i : Instr) (s : State) : Option Word := (after [i] s).map (·.result)

/-- The state after some presented transactions, under the example configuration. -/
def ran (ts : List Transaction) : Option State := nextState (stepN ts.length { State.reset with inbox := ts })

/-- What a step refuses. -/
def refusalAt (s : State) : Option Refusal :=
  match step s with
  | .refused r => some r
  | .next _ => none
  | .fault f => nomatch f

/-- The three flags of the activation rule. -/
def flags (ready parked unlocked : Bool) : State :=
  { State.reset with
    vehicle := { VehicleState.reset with systemReady := ready, isParked := parked, isUnlocked := unlocked } }

/-- A state of the `ACT` vectors: flags, `rule_prev`, `release`, `started_at` (95_test_vectors.md §2.7). -/
def actState (ready parked unlocked rulePrev release : Bool) (startedAt : Timestamp) : State :=
  { flags ready parked unlocked with
    actuator := { ActuatorState.reset with rulePrev := rulePrev, release := release, startedAt := startedAt } }

/-- The columns of the `ACT` vectors after an `ACT`. -/
def actColumns (now : Timestamp) (s : State) : Option (Bool × Timestamp × Bool × List OutputEvent) :=
  (after [.act now true] s).map fun t => (t.actuator.release, t.actuator.startedAt, t.actuator.rulePrev, t.events)

/-- The example configuration under `LEVEL`, under `ZERO_TIMESTAMP` and under `MSB_PLUS_WIDTH`. -/
def exLevel : Config := { Config.ex with rearmPolicy := .level }
def exZero : Config := { Config.ex with initFreshness := .zeroTimestamp }
def exMsb : Config := { Config.ex with extractRange := .msbPlusWidth }

/-- The payload of the vectors of 95_test_vectors.md §2.1. -/
def P : Payload := 0x0123456789ABCDEF#64

/-- The bytes of the source's scenario 1 (95_test_vectors.md T1). -/
def scenario1 : Payload := payloadOfBytes [0x00, 0x0F, 0x00, 0x00, 0x02, 0xC7, 0x44, 0x10]

/-- The frames of program P2, line 1. -/
def parkThenUnlock (ts : Timestamp) : List Instr := [.framePark 8 0x10000000#64 ts, .frameLock 8 0x400000000#64 ts]

/-- A frame transaction by its buses. -/
def frameBus (id : Identifier) (len : BitVec 4) (data : Payload) (ts : Timestamp) : Transaction :=
  { Transaction.blank .frame with op := 0b0001#4, id := id, len := len, data := data, ts := ts }

/-- A decidable property of every element of a list, by running through the list. -/
theorem forall_of_all {α : Type} {p : α → Prop} [DecidablePred p] {l : List α} (h : l.all (fun a => decide (p a)) = true) :
    ∀ a ∈ l, p a := by simpa using h

/-! ## WellFormed and admission refuse what they should -/

theorem test_wf_time_too_wide_lamp : Instr.wellFormed Config.ex (.frameLamp 8 0 0x100000000#64) = false := by decide
theorem test_wf_time_too_wide_lock : Instr.wellFormed Config.ex (.frameLock 8 0 0x100000000#64) = false := by decide
theorem test_wf_time_too_wide_park : Instr.wellFormed Config.ex (.framePark 8 0 0x100000000#64) = false := by decide
theorem test_wf_time_too_wide_batt : Instr.wellFormed Config.ex (.frameBatt 8 0 0x100000000#64) = false := by decide
theorem test_wf_time_too_wide_other : Instr.wellFormed Config.ex (.frameOther 5 8 0 0x100000000#64) = false := by decide
theorem test_wf_time_too_wide_ready : Instr.wellFormed Config.ex (.ready 0x100000000#64) = false := by decide
theorem test_wf_time_too_wide_act : Instr.wellFormed Config.ex (.act 0x100000000#64 true) = false := by decide
theorem test_wf_widest_time : Instr.wellFormed Config.ex (.ready 0xFFFFFFFF#64) = true := by decide
theorem test_wf_other_is_not_recognized :
    (Instr.wellFormed Config.ex (.frameOther 0x010 8 0 0), Instr.wellFormed Config.ex (.frameOther 0x011 8 0 0),
      Instr.wellFormed Config.ex (.frameOther 0x012 8 0 0), Instr.wellFormed Config.ex (.frameOther 0x013 8 0 0),
      Instr.wellFormed Config.ex (.frameOther 0x014 8 0 0)) = (false, false, false, false, true) := by decide

/-- 70_reset_and_hazards.md R234: each bound broken once, and the two largest admissible durations. -/
theorem test_admission :
    [admissible Config.ex, admissible { Config.ex with tsWidth := 0 }, admissible { Config.ex with tsWidth := 65 },
      admissible { Config.ex with readinessTimeout := 0 }, admissible { Config.ex with readinessTimeout := 2 ^ 31 },
      admissible { Config.ex with fixedDuration := 0 }, admissible { Config.ex with fixedDuration := 2 ^ 31 },
      admissible { Config.ex with idBatt := 0x010 }, admissible { Config.ex with idLock := 0x012 },
      admissible { Config.ex with readinessTimeout := 2 ^ 31 - 1, fixedDuration := 2 ^ 31 - 1 }]
    = [true, false, false, false, false, false, false, false, false, true] := by decide

/-! ## Decoding: buses written out from 30_encoding.md R80 to R83 and 95_test_vectors.md §3 -/

theorem test_decode_lamp : decode Config.ex (frameBus 0b00000010000#11 0b1000#4 0x0000000000000400#64 0x0A#64)
    = .ok (.frameLamp 8 0x400#64 10#64) := by rfl
theorem test_decode_lock : decode Config.ex (frameBus 0b00000010001#11 0b1000#4 0x1044C70200000F00#64 0x64#64)
    = .ok (.frameLock 8 scenario1 100#64) := by rfl
theorem test_decode_park : decode Config.ex (frameBus 0b00000010010#11 0b1000#4 0x0000000010000000#64 0x0A#64)
    = .ok (.framePark 8 0x10000000#64 10#64) := by rfl
theorem test_decode_batt : decode Config.ex (frameBus 0b00000010011#11 0b1000#4 0x0000000000500000#64 0xC8#64)
    = .ok (.frameBatt 8 0x500000#64 200#64) := by rfl
theorem test_decode_other : decode Config.ex (frameBus 0b11111111111#11 0b1000#4 0xFFFFFFFFFFFFFFFF#64 0xAA#64)
    = .ok (.frameOther 0x7FF#11 8 0xFFFFFFFFFFFFFFFF#64 170#64) := by rfl
theorem test_decode_short_lock : decode Config.ex (frameBus 0b00000010001#11 0b0111#4 0#64 0xA0#64)
    = .ok (.frameLock 7 0#64 160#64) := by rfl
theorem test_decode_ready : decode Config.ex { Transaction.blank .frame with op := 0b0010#4, now := 0x1FD#64 }
    = .ok (.ready 509#64) := by rfl
theorem test_decode_act : decode Config.ex { Transaction.blank .frame with op := 0b0011#4, now := 0x1FE#64, btnN := true }
    = .ok (.act 510#64 true) := by rfl
theorem test_decode_extract : decode Config.ex
    { Transaction.blank .frame with op := 0b0100#4, data := 0x1044C70200000F00#64, msb := 34#8, wid := 2#8 }
    = .ok (.extract scenario1 34#8 2#8) := by rfl
theorem test_decode_set : decode Config.ex
    { Transaction.blank .frame with op := 0b0101#4, data := 0#64, msb := 11#8, wid := 2#8, val := 2#64 }
    = .ok (.set 0#64 11#8 2#8 2#64) := by rfl
theorem test_decode_read : decode Config.ex { Transaction.blank .frame with op := 0b0110#4, addr := 0x02#8 }
    = .ok (.read 0x02#8) := by rfl
theorem test_decode_reset : decode Config.ex { Transaction.blank .frame with op := 0b0111#4 } = .ok .reset := by rfl

/-- Of a time bus only `W` bits exist (00_scope.md R8). -/
theorem test_decode_drops_time_above_W :
    decode Config.ex { Transaction.blank .ready with now := 0x700000005#64 } = .ok (.ready 5#64) := by rfl

/-- V-PAR-10 and 30_encoding.md R84. -/
theorem test_refusals :
    (refusalAt (State.reset.presentNext (frameBus 0x011 9 0 0)),
      refusalAt (State.reset.presentNext { Transaction.blank .frame with op := 0x0#4 }),
      refusalAt (State.reset.presentNext { Transaction.blank .frame with op := 0xF#4 }),
      refusalAt { State.reset with cfg := { Config.ex with tsWidth := 0 } })
    = (some (.notAFrame 9), some (.reservedOpcode 0), some (.reservedOpcode 0xF), some .badConfiguration) := by decide

/-- The table words of 30_encoding.md R83: `(ID_PARK << 4) | 1` on 15 bits, `OP` alone on 4. -/
theorem test_table_words : (decodeTableWord 15 0x121, decodeTableWord 4 0x1, decodeTableWord 4 0x7, decodeTableWord 4 0x8)
    = (some (.framePark 0 0 0), some (.frameOther 0 0 0 0), some .reset, none) := by decide

/-- The next step runs the placed transaction and no other. -/
theorem test_withFetchWord : (nextState (step (State.reset.withFetchWord 4 0x3))).map (fun t => (t.actuator.buttonInput, t.inbox))
    = some (true, []) := by decide

/-- The text syntax (30_encoding.md R89), first line of program P1 with its numbers in decimal. -/
theorem test_text : instrText Config.ex (.frameLock 8 scenario1 100)
    = "FRAME id=17 len=8 data=[0,15,0,0,2,199,68,16] ts=100" := by decide

/-- `FRAME.k v` payloads (95_test_vectors.md §2.3). -/
theorem test_frame_short : ((frameShort Config.ex .lamp 3 0).data, (frameShort Config.ex .lock 2 0).data,
      (frameShort Config.ex .park 5 0).data, (frameShort Config.ex .batt 85 0).data)
    = (0xC00#64, 0x400000000#64, 0x50000000#64, 0x550000#64) := by decide

/-! ## Frames -/

/-- V-PAR-5, and the example of 41_frame_parsers.md R127. -/
theorem test_lamp : ((after [.frameLamp 8 scenario1 7] State.reset).map fun t => (t.vehicle.lamp.cur, t.vehicle.bedlightOn),
      (after [.frameLamp 8 0x800 5] State.reset).map fun t => (t.vehicle.lamp.cur, t.vehicle.bedlightOn, t.vehicle.lamp.last))
    = (some (some 3, false), some (some 2, true, 5)) := by decide
/-- A wrong length changes nothing (41_frame_parsers.md R121). -/
theorem test_lamp_short : after [.frameLamp 7 scenario1 7] State.reset = some State.reset := by decide
/-- V-UPD-1 to V-UPD-3. -/
theorem test_lock : (after [.frameLock 8 scenario1 100, .frameLock 8 0x400000000 150, .frameLock 8 0x400000000 160] State.reset).map
      (·.vehicle.lock) = some { cur := some 2, prev := some 2, last := 160, seen := true } := by decide
/-- V-UPD-4. -/
theorem test_lock_short : (after [.frameLock 8 scenario1 100, .frameLock 8 0x400000000 150, .frameLock 7 0 170] State.reset).map
      (fun t => (t.vehicle.lock.cur, t.vehicle.lock.prev, t.vehicle.lock.last, t.vehicle.isUnlocked))
    = some (some 2, some 1, 150, true) := by decide
/-- V-PAR-9 and V-PAR-6. -/
theorem test_park : ((after [.framePark 8 0xFFFFFFFF1FFFFFFF 3] State.reset).map fun t => (t.vehicle.park.cur, t.vehicle.isParked),
      (after [.framePark 8 scenario1 3] State.reset).map fun t => (t.vehicle.park.cur, t.vehicle.isParked))
    = (some (some 1, true), some (some 0, false)) := by decide
/-- V-PAR-8: bit 23 is ignored. -/
theorem test_batt : (after [.frameBatt 8 0xD50000 3] State.reset).map (fun t => (t.vehicle.batt.cur, t.vehicle.batt.seen))
    = some (some 85, true) := by decide
/-- V-PAR-4. -/
theorem test_other : after [.frameOther 0x7FF 8 scenario1 9] State.reset = some State.reset := by decide

/-! ## READY -/

/-- V-RDY-1 to V-RDY-7. -/
theorem test_ready : [0#64, 100, 1099, 1100, 99].map
      (fun now => (after [.frameLock 8 scenario1 100, .ready now] State.reset).map (·.vehicle.systemReady))
      ++ [(after [.ready 0] State.reset).map (·.vehicle.systemReady)]
    = [some false, some true, some true, some false, some false, some false] := by decide
/-- V-RDY-8 to V-RDY-10. -/
theorem test_ready_zero_timestamp : [0#64, 999, 1000].map
      (fun now => (after [.ready now] (State.powerUp exZero)).map (·.vehicle.systemReady))
    = [some true, some true, some false] := by decide

/-! ## ACT -/

/-- V-ACT-1 to V-ACT-8. -/
theorem test_act :
    [actColumns 10 (actState true true true false false 0), actColumns 300 (actState true true true true true 10),
      actColumns 509 (actState true true true true true 10), actColumns 510 (actState true true true true true 10),
      actColumns 900 (actState true true true true false 10), actColumns 100 (actState false true true true true 10),
      actColumns 600 (actState true false true true true 10), actColumns 5 (actState true true false false false 0)]
    = [some (true, 10, true, [.writeReleaseOutput true 10]), some (true, 10, true, []),
      some (true, 10, true, []), some (false, 10, true, [.writeReleaseOutput false 510]),
      some (false, 10, true, []), some (false, 10, false, [.writeReleaseOutput false 100]),
      some (false, 10, false, [.writeReleaseOutput false 600]), some (false, 0, false, [])] := by decide
/-- V-ACT-5 under `LEVEL`; V-ACT-9 and V-ACT-10. -/
theorem test_act_level_and_bedlight :
    (actColumns 900 { actState true true true true false 10 with cfg := exLevel },
      (after [.act 5 false, .act 6 true] { State.reset with vehicle := { VehicleState.reset with bedlightOn := true } }).map
        fun t => (t.actuator.bedlight, t.actuator.buttonInput, t.events))
    = (some (true, 900, true, [.writeReleaseOutput true 900]), some (true, false, [.writeBedlight true 5])) := by decide

/-! ## EXTRACT and SET -/

/-- V-EX-1, 4, 5, 8, 9, 10, 11, 13 and 18. -/
theorem test_extract : [resultOf (.extract P 63 64) State.reset, resultOf (.extract P 11 8) State.reset,
      resultOf (.extract P 39 16) State.reset, resultOf (.extract P 3 5) State.reset, resultOf (.extract P 5 0) State.reset,
      resultOf (.extract P 64 1) State.reset, resultOf (.extract P 63 65) State.reset,
      resultOf (.extract 0xC000000000000000 63 2) State.reset, resultOf (.extract P 22 7) State.reset]
    = [some P, some 0xDE, some 0x6789, some 0, some 0, some 0, some 0, some 3, some 0x2B] := by decide
/-- V-EX-1, 13 and 14 under `MSB_PLUS_WIDTH`. -/
theorem test_extract_msb_plus_width : [resultOf (.extract P 63 64) (State.powerUp exMsb),
      resultOf (.extract 0xC000000000000000 63 2) (State.powerUp exMsb),
      resultOf (.extract 0xC000000000000000 62 2) (State.powerUp exMsb)] = [some 0, some 0, some 2] := by decide
/-- V-SET-1 to 5, 7, 8, 9 and 10. -/
theorem test_set : [resultOf (.set 0 11 2 2) State.reset, resultOf (.set 0xFFFFFFFFFFFFFFFF 34 2 0) State.reset,
      resultOf (.set 0 7 4 0x1F) State.reset, resultOf (.set P 64 1 1) State.reset,
      resultOf (.set P 63 64 0xDEADBEEF) State.reset, resultOf (.set P 11 8 0) State.reset,
      resultOf (.set 0 63 2 3) State.reset, resultOf (.set P 3 5 0x1F) State.reset, resultOf (.set 0 22 7 200) State.reset]
    = [some 0x800, some 0xFFFFFFF9FFFFFFFF, some 0xF0, some P, some 0xDEADBEEF, some 0x0123456789ABC00F,
      some 0xC000000000000000, some P, some 0x480000] := by decide
/-- V-SET-5 and V-SET-8 under `MSB_PLUS_WIDTH`. -/
theorem test_set_msb_plus_width : [resultOf (.set P 63 64 0xDEADBEEF) (State.powerUp exMsb),
      resultOf (.set 0 63 2 3) (State.powerUp exMsb)] = [some P, some 0] := by decide

/-! ## READ and RESET -/

/-- V-RD-3 to V-RD-5. -/
theorem test_read : [0x02#8, 0x00, 0x06].map (fun a =>
      (after [.frameLock 8 scenario1 100, .frameLock 8 0x400000000 150, .read a] State.reset).map (·.result))
    = [some 0x8182, some 0x204, some 150] := by decide
/-- V-RD-2 and the reset values of V-RD-1. -/
theorem test_read_reserved : [0x0A#8, 0x80, 0xFF, 0x00, 0x04, 0x09].map (fun a => resultOf (.read a) State.reset)
    = [some 0, some 0, some 0, some 0, some 0, some 0] := by decide
/-- V-RST-1. -/
theorem test_reset : after [.reset] (actState true true true true true 10) = some State.reset := by decide

/-! ## Programs through `step` -/

/-- Program P1 of 95_test_vectors.md, lines 1, 3, 5, 6 and 7, as its buses. -/
theorem test_P1 : (ran [frameBus 0x011 8 0x1044C70200000F00 0x64, frameBus 0x011 8 0x1044C70500000F00 0x96,
      frameBus 0x011 7 0 0xA0, frameBus 0x7FF 8 0xFFFFFFFFFFFFFFFF 0xAA,
      { Transaction.blank .frame with op := 0x6#4, addr := 0x00#8 }]).map
      (fun t => (t.result, t.vehicle.lock.cur, t.vehicle.lock.prev, t.vehicle.lock.last))
    = some (0x204, some 2, some 1, 150) := by decide

/-- Program P2, line 1, by its pseudo-operations: STATUS is `0x6AD`. -/
theorem test_P2_line1 : (ran (cycle Config.ex 10 true [frameShort Config.ex .park 1 10, frameShort Config.ex .lock 2 10]
      ++ [{ Transaction.blank .read with addr := 0x00#8 }])).map (fun t => (t.result, t.events))
    = some (0x6AD, [.writeReleaseOutput true 10]) := by decide

/-- Program P5: the release window across the wrap of the timestamp. -/
theorem test_P5_window : (elapsed Config.ex 0xF3 0xFFFFFF00, elapsed Config.ex 0xF4 0xFFFFFF00) = (499, 500) := by decide

/-! ## Witnesses: states and operands that meet the hypotheses of each statement together -/

/-- The state after program P2, line 1: the release output active since 10. -/
def active : State := actState true true true true true 10

theorem ex_admissible : admissible Config.ex = true := by decide

/-- A transaction waits in the inbox. -/
def waiting (t : Transaction) : State := State.reset.presentNext t

theorem witness_StepPerformsTheDecodedInstruction :
    (admissible State.reset.cfg = true ∧ State.reset.inbox = [])
    ∧ ∃ t rest i, admissible (waiting (frameBus 0x011 8 scenario1 100)).cfg = true
        ∧ (waiting (frameBus 0x011 8 scenario1 100)).inbox = t :: rest ∧ decode Config.ex t = .ok i :=
  ⟨⟨by decide, rfl⟩, _, _, _, by decide, rfl, rfl⟩

theorem witness_ReservedOpcodesAreRefused : ∀ op ∈ [0x0#4, 0x8#4, 0xF#4], ∃ (s : State) (t : Transaction) (rest : List Transaction),
    admissible s.cfg = true ∧ s.inbox = t :: rest ∧ t.op = op ∧ (t.op.toNat = 0 ∨ 8 ≤ t.op.toNat) := by
  intro op h
  refine ⟨waiting { Transaction.blank .frame with op := op }, _, _, ex_admissible, rfl, rfl, ?_⟩
  revert h; revert op; decide

theorem witness_LengthsAboveEightAreRefused : ∀ len ∈ [9#4, 15#4], ∃ (s : State) (t : Transaction) (rest : List Transaction),
    admissible s.cfg = true ∧ s.inbox = t :: rest ∧ t.op = 0x1#4 ∧ t.len = len ∧ 9 ≤ t.len.toNat := by
  intro len h
  refine ⟨waiting (frameBus 0x011 len 0 0), _, _, ex_admissible, rfl, rfl, rfl, ?_⟩
  revert h; revert len; decide

theorem witness_StepRefusesOnlyThreeThings :
    (∃ r, step { State.reset with cfg := { Config.ex with tsWidth := 0 } } = .refused r)
    ∧ (∃ r, step (waiting { Transaction.blank .frame with op := 0x8#4 }) = .refused r)
    ∧ ∃ r, step (waiting (frameBus 0x011 9 0 0)) = .refused r := ⟨⟨_, rfl⟩, ⟨_, rfl⟩, ⟨_, rfl⟩⟩

theorem witness_DecodeOfEncodeIsTheInstruction : admissible Config.ex = true
    ∧ ∀ i ∈ [Instr.frameLamp 8 P 0xFFFFFFFF, .frameLock 0 P 0, .framePark 8 P 0, .frameBatt 7 P 0, .frameOther 0x7FF 8 P 0,
        .ready 0xFFFFFFFF, .act 0 false, .extract P 255 255, .set P 63 64 P, .read 0xFF, .reset],
        i.wellFormed Config.ex = true := by decide

theorem witness_EncodeOfDecodeIsTheTransaction : admissible Config.ex = true
    ∧ ∀ op ∈ [0x1#4, 0x2#4, 0x3#4, 0x4#4, 0x5#4, 0x6#4, 0x7#4],
        (decode Config.ex { frameBus 0x010 8 P 5 with op := op }).toOption.isSome = true := by decide

theorem witness_FrameRowsSelectTheSubOperation : admissible Config.ex = true
    ∧ ∀ id ∈ [0x010#11, 0x011#11, 0x012#11, 0x013#11, 0x014#11, 0x7FF#11],
        (decode Config.ex (frameBus id 8 P 5)).toOption.isSome = true := ⟨ex_admissible, forall_of_all (by decide)⟩

/-- Two transactions that differ on every bus their opcode does not read. -/
theorem witness_UnreadBusesAreIgnored : ∀ op ∈ [0x1#4, 0x2#4, 0x3#4, 0x4#4, 0x5#4, 0x6#4, 0x7#4], ∃ t u : Transaction,
    t ≠ u ∧ t.op = op ∧ t.op = u.op
    ∧ (t.op = 0x1#4 → t.id = u.id ∧ t.len = u.len ∧ t.data = u.data ∧ t.ts = u.ts)
    ∧ (t.op = 0x2#4 → t.now = u.now)
    ∧ (t.op = 0x3#4 → t.now = u.now ∧ t.btnN = u.btnN)
    ∧ (t.op = 0x4#4 → t.data = u.data ∧ t.msb = u.msb ∧ t.wid = u.wid)
    ∧ (t.op = 0x5#4 → t.data = u.data ∧ t.msb = u.msb ∧ t.wid = u.wid ∧ t.val = u.val)
    ∧ (t.op = 0x6#4 → t.addr = u.addr) := by
  intro op h
  refine ⟨{ frameBus 0x010 8 P 5 with op := op },
    { frameBus 0x010 8 P 5 with
      op := op, now := if op = 0x1#4 ∨ 0x4 ≤ op.toNat then 9 else 0, val := if op = 0x5#4 then 0 else 7 }, ?_⟩
  revert h; revert op; decide

theorem witness_RunPerformsTransactionsInOrder : ∃ (s : State) (is : List Instr),
    admissible s.cfg = true ∧ s.inbox.length = 3 ∧ decodeAll s.cfg s.inbox = .ok is :=
  ⟨{ State.reset with inbox := cycle Config.ex 10 true [frameShort Config.ex .park 1 10] }, _, by decide, rfl, rfl⟩

theorem witness_PseudoOperationsExpand : admissible Config.ex = true ∧ State.reset.cfg = Config.ex
    ∧ timeFits Config.ex 0xFFFFFFFF = true ∧ (∃ is, decodeAll Config.ex [frameShort Config.ex .park 1 10] = .ok is) :=
  ⟨by decide, rfl, by decide, _, rfl⟩

/-- The two cases of a frame's length, and a code that differs from the current one. -/
theorem witness_FrameUpdates : ∃ (len short : Fin 9) (a b d : BitVec 2) (e : BitVec 4) (f : BitVec 7), len.val = 8 ∧ short.val = 7
    ∧ a = (payloadByte scenario1 1 >>> 2).setWidth 2 ∧ b = (payloadByte scenario1 4 >>> 1).setWidth 2 ∧ b = 1
    ∧ d = (payloadByte 0x400000000 4 >>> 1).setWidth 2 ∧ d = 2
    ∧ e = (payloadByte 0x50000000 3 >>> 4).setWidth 4 ∧ e = 5 ∧ f = (payloadByte 0x7F0000 2).setWidth 7 ∧ f = 127 :=
  ⟨8, 7, _, _, _, _, _, rfl, rfl, rfl, rfl, rfl, rfl, rfl, rfl, rfl, rfl, rfl⟩

theorem witness_ParsersReturnTheirField : (parseLamp Config.ex ⟨0x010, 8, scenario1, 0⟩).valid = true
    ∧ (parseLock Config.ex ⟨0x011, 8, scenario1, 0⟩).valid = true ∧ (parsePark Config.ex ⟨0x012, 8, scenario1, 0⟩).valid = true
    ∧ (parseBatt Config.ex ⟨0x013, 8, scenario1, 0⟩).valid = true ∧ (parseLock Config.ex ⟨0x011, 7, scenario1, 0⟩).valid = false
    ∧ (parseLock Config.ex ⟨0x010, 8, scenario1, 0⟩).valid = false := by decide

theorem witness_FramesReadOnlyTheirField : ∃ (len : Fin 9) (p q : Payload), len.val = 8 ∧ p ≠ q
    ∧ (∀ j, 10 ≤ j → j ≤ 11 → p.getLsbD j = q.getLsbD j) ∧ (∀ j, 33 ≤ j → j ≤ 34 → p.getLsbD j = q.getLsbD j)
    ∧ (∀ j, 28 ≤ j → j ≤ 31 → p.getLsbD j = q.getLsbD j) ∧ (∀ j, 16 ≤ j → j ≤ 22 → p.getLsbD j = q.getLsbD j) := by
  refine ⟨8, 0, 0xFFFFFFF90F80F3FF#64, rfl, by decide, ?_, ?_, ?_, ?_⟩ <;>
    (intro j h1 h2; interval_cases j <;> decide)

theorem witness_SignalRegistersHoldTheLastTwoUpdates_frame : ∃ t, exec (.frameLamp 7 P 5) active = .next t
    ∧ isReset (.frameLamp 7 P 5) = false ∧ lampUpdate (.frameLamp 7 P 5) = none ∧ lockUpdate (.frameLamp 7 P 5) = none
    ∧ parkUpdate (.frameLamp 7 P 5) = none ∧ battUpdate (.frameLamp 7 P 5) = none :=
  ⟨_, rfl, by decide, by decide, by decide, by decide, by decide⟩

theorem witness_DerivedBooleansDoNotDecay : ∃ t, exec (.ready 0xFFFFFFFF) active = .next t
    ∧ isReset (.ready 0xFFFFFFFF) = false ∧ lampUpdate (.ready 0xFFFFFFFF) = none
    ∧ lockUpdate (.ready 0xFFFFFFFF) = none ∧ parkUpdate (.ready 0xFFFFFFFF) = none ∧ t.vehicle.isParked = true :=
  ⟨_, rfl, by decide, by decide, by decide, by decide, by decide⟩

theorem witness_SignalRegistersHoldTheLastTwoUpdates : ∃ t,
    execAll [.frameLock 8 scenario1 100, .reset, .frameLock 8 scenario1 110, .frameLock 8 0x400000000 150]
      (State.powerUp Config.ex) = .next t ∧ t.vehicle.lock = { cur := some 2, prev := some 1, last := 150, seen := true } :=
  ⟨_, rfl, by decide⟩

/-- The lock signal last updated at 100 is fresh at 1099 and stale at 1100 (V-RDY-3, V-RDY-4). -/
def lockAt100 : State :=
  { State.reset with vehicle := { VehicleState.reset with lock := { cur := some 1, prev := none, last := 100, seen := true } } }

theorem witness_ReadyIsTheOrOfFreshSignals : admissible lockAt100.cfg = true
    ∧ ((1099 : Int) - 100) % 2 ^ lockAt100.cfg.tsWidth < lockAt100.cfg.readinessTimeout
    ∧ ¬ ((1100 : Int) - 100) % 2 ^ lockAt100.cfg.tsWidth < lockAt100.cfg.readinessTimeout
    ∧ lockAt100.vehicle.lock.seen = true ∧ lockAt100.vehicle.lamp.seen = false := by decide

/-- Every signal updated at the clock value 100, seen at a clock that has wrapped once. -/
def allAt100 : State :=
  { State.reset with
    vehicle :=
      { VehicleState.reset with
        lamp := { cur := some 1, prev := none, last := 100, seen := true }
        lock := { cur := some 1, prev := none, last := 100, seen := true }
        park := { cur := some 1, prev := none, last := 100, seen := true }
        batt := { cur := some 1, prev := none, last := 100, seen := true } } }

theorem witness_ReadinessFollowsTheRealClock : admissible allAt100.cfg = true
    ∧ (∀ y ∈ [4294967396, 4294968395, 4294968396, 8589934691],
        4294967396 ≤ y ∧ y - 4294967396 < 2 ^ allAt100.cfg.tsWidth ∧ carries allAt100.cfg y (BitVec.ofNat 64 (y % 4294967296)))
    ∧ 4294968395 - 4294967396 < allAt100.cfg.readinessTimeout
    ∧ allAt100.cfg.readinessTimeout ≤ 4294968396 - 4294967396
    ∧ ∀ r ∈ [(allAt100.vehicle.lamp.seen, allAt100.vehicle.lamp.last), (allAt100.vehicle.lock.seen, allAt100.vehicle.lock.last),
             (allAt100.vehicle.park.seen, allAt100.vehicle.park.last), (allAt100.vehicle.batt.seen, allAt100.vehicle.batt.last)],
        r.1 = true ∧ carries allAt100.cfg 4294967396 r.2 := by
  simp only [carries]
  exact ⟨ex_admissible, forall_of_all (by decide), by decide, by decide, forall_of_all (by decide)⟩

theorem witness_UpdateThenReadyIsReady : admissible State.reset.cfg = true := by decide

theorem witness_FreshnessMovesOnlyByUpdateAndReset : admissible allAt100.cfg = true
    ∧ (∃ t, exec .reset allAt100 = .next t ∧ isReset .reset = true ∧ allAt100.cfg.initFreshness = .neverFresh)
    ∧ (∃ t v ts, exec (.frameBatt 8 P 2000) allAt100 = .next t ∧ battUpdate (.frameBatt 8 P 2000) = some (v, ts)
        ∧ isReset (.frameBatt 8 P 2000) = false ∧ lampUpdate (.frameBatt 8 P 2000) = none)
    ∧ freshnessOf allAt100.cfg allAt100.vehicle.lamp 1099 = .fresh
    ∧ freshnessOf allAt100.cfg allAt100.vehicle.lamp 1100 = .stale :=
  ⟨ex_admissible, ⟨_, rfl, rfl, rfl⟩, ⟨_, _, _, rfl, rfl, rfl, rfl⟩, by decide, by decide⟩

theorem witness_ReadinessIsLatched : ∃ t, exec (.ready 1099) lockAt100 = .next t
    ∧ t.vehicle.systemReady ≠ lockAt100.vehicle.systemReady := ⟨_, rfl, by decide⟩

/-- Both ways: never seen, at a `NOW` just after a wrap; and every signal seen and stale (V-RDY-4). -/
theorem witness_StaleDataTurnsTheReleaseOff : (∀ s ∈ [(active, 5#64), (allAt100, 1100#64), (lockAt100, 1100#64)],
    ∀ r ∈ [(s.1.vehicle.lamp.seen, s.1.vehicle.lamp.last), (s.1.vehicle.lock.seen, s.1.vehicle.lock.last),
           (s.1.vehicle.park.seen, s.1.vehicle.park.last), (s.1.vehicle.batt.seen, s.1.vehicle.batt.last)],
      (s.1.cfg.initFreshness = .neverFresh ∧ r.1 = false) ∨ s.1.cfg.readinessTimeout ≤ elapsed s.1.cfg s.2 r.2)
    ∧ active.actuator.release = true := by
  refine ⟨?_, rfl⟩
  simp only [List.forall_mem_cons, List.not_mem_nil, false_imp_iff, implies_true, and_true]
  decide

theorem witness_ActFollowsTheLampAndSamplesTheButton : active.actuator.bedlight = active.vehicle.bedlightOn
    ∧ ∃ s : State, s.actuator.bedlight ≠ s.vehicle.bedlightOn :=
  ⟨rfl, { active with actuator := { active.actuator with bedlight := true } }, by decide⟩

theorem witness_ActActivatesOnARisingEdge : ∃ s : State, 1 ≤ s.cfg.fixedDuration ∧ s.cfg.rearmPolicy = .edge
    ∧ s.vehicle.systemReady = true ∧ s.vehicle.isParked = true ∧ s.vehicle.isUnlocked = true
    ∧ s.actuator.rulePrev = false ∧ s.actuator.release = false := ⟨actState true true true false false 0, by decide⟩

theorem witness_ActTurnsOffWhenTheRuleIsFalse : ∀ s ∈ [actState false true true true true 10, actState true false true true true 10,
      actState true true false true true 10],
    (s.vehicle.systemReady = false ∨ s.vehicle.isParked = false ∨ s.vehicle.isUnlocked = false)
      ∧ s.actuator.release = true := by decide

/-- The first `ACT` at which the window is over (V-ACT-4). -/
theorem witness_ActTurnsOffWhenTheWindowIsOver : active.cfg.tsWidth ≤ 64 ∧ active.actuator.release = true
    ∧ (active.cfg.fixedDuration : Int) ≤ (((510#64).toNat : Int) - active.actuator.startedAt.toNat) % 2 ^ active.cfg.tsWidth := by
  decide

/-- The last `ACT` inside the window (V-ACT-3). -/
theorem witness_SustainedRuleKeepsTheStart : active.actuator.release = true ∧ active.vehicle.systemReady = true
    ∧ active.vehicle.isParked = true ∧ active.vehicle.isUnlocked = true
    ∧ elapsed active.cfg 509 active.actuator.startedAt < active.cfg.fixedDuration := by decide

theorem witness_LevelPolicyRearmsWithoutAnEdge : ∃ s : State, 1 ≤ s.cfg.fixedDuration ∧ s.cfg.rearmPolicy = .level
    ∧ s.vehicle.systemReady = true ∧ s.vehicle.isParked = true ∧ s.vehicle.isUnlocked = true
    ∧ s.actuator.release = false ∧ s.actuator.rulePrev = true :=
  ⟨{ actState true true true true false 10 with cfg := exLevel }, by decide⟩

theorem witness_NoEdgeNoActivation :
    ((actState true true false false false 0).actuator.release = false ∧ (actState true true false false false 0).vehicle.isUnlocked = false)
    ∧ (actState true true true true false 10).actuator.release = false
    ∧ (actState true true true true false 10).cfg.rearmPolicy = .edge
    ∧ (actState true true true true false 10).actuator.rulePrev = true := by decide

theorem witness_EventsAreExactlyTheOutputChanges : (∃ t, exec (.act 10 true) (actState true true true false false 0) = .next t
      ∧ actNow (.act 10 true) = some 10 ∧ t.events ≠ [])
    ∧ ∃ t, exec .reset active = .next t ∧ actNow .reset = none := ⟨⟨_, rfl, rfl, by decide⟩, _, rfl, rfl⟩

/-- Program P2 up to its first `ACT`. -/
def p2Line1 : List Instr := parkThenUnlock 10 ++ [.ready 10, .act 10 true]

theorem witness_EventHistoryReplaysToThePorts : (∀ i ∈ p2Line1, isReset i = false)
    ∧ ∃ t, execAll p2Line1 (State.powerUp Config.ex) = .next t ∧ t.releasePort = true := ⟨by decide, _, rfl, by decide⟩

theorem witness_HardInvariantAfterEveryAct : (∃ t, exec (.act 509 true) active = .next t ∧ t.actuator.release = true)
    ∧ ∃ t, exec (.ready 5) active = .next t ∧ actNow (.ready 5) = none ∧ isReset (.ready 5) = false :=
  ⟨⟨_, rfl, by decide⟩, _, rfl, rfl, rfl⟩

theorem witness_ActivationIsBounded : active.actuator.release = true
    ∧ active.cfg.fixedDuration ≤ elapsed active.cfg 510 active.actuator.startedAt := by decide

/-- An activation at the clock value `2^32 + 10`, whose `ACT`s follow at 300 and at the end of the window. -/
theorem witness_ActivationIsBoundedInRealTime : admissible active.cfg = true ∧ active.actuator.release = true
    ∧ carries active.cfg (2 ^ 32 + 10) active.actuator.startedAt
    ∧ actsCarryClock active.cfg ([(2 ^ 32 + 300, Instr.act 300 true)] ++ [(2 ^ 32 + 510, .act 510 true)])
    ∧ actsCloseEnough active.cfg (2 ^ 32 + 10) ([(2 ^ 32 + 300, Instr.act 300 true)] ++ [(2 ^ 32 + 510, .act 510 true)])
    ∧ 2 ^ 32 + 10 + active.cfg.fixedDuration ≤ 2 ^ 32 + 510 := by
  refine ⟨by decide, rfl, rfl, ?_, ?_, by decide⟩
  · intro p hp now h
    simp only [List.cons_append, List.nil_append, List.mem_cons, List.not_mem_nil, or_false] at hp
    rcases hp with rfl | rfl <;> (cases h; rfl)
  · simp [actsCloseEnough, actClocks, actNow, active, actState, flags, State.reset, State.powerUp, Config.ex]

theorem witness_ActivationLawUnderEdge : admissible Config.ex = true ∧ Config.ex.rearmPolicy = .edge
    ∧ (∃ t, execAll (p2Line1 ++ [.act 509 true]) (State.powerUp Config.ex) = .next t ∧ t.releasePort = true)
    ∧ ∃ t, execAll (p2Line1 ++ [.act 510 true]) (State.powerUp Config.ex) = .next t ∧ t.releasePort = false :=
  ⟨by decide, rfl, ⟨_, rfl, by decide⟩, _, rfl, by decide⟩

/-- V-ACT-5: the rule still true after a timer-driven turn-off. -/
theorem witness_RearmingNeedsTheRuleToGoFalse : ∃ (s t : State) (is : List Instr), s.cfg.rearmPolicy = .edge
    ∧ s.actuator.release = false ∧ s.actuator.rulePrev = true ∧ (∀ i ∈ is, isReset i = false)
    ∧ (∀ e ∈ actLog [] is s, e.1 = true) ∧ actLog [] is s ≠ [] ∧ execAll is s = .next t :=
  ⟨actState true true true true false 10, _, [.framePark 8 0x10000000 890, .act 900 true, .act 901 true],
    rfl, rfl, rfl, by decide, forall_of_all (by decide), by decide, rfl⟩

theorem witness_BatteryValueNeverMatters : ∃ s t : State, s ≠ t ∧ sameButBattValue s t ∧ Instr.ready 5 ≠ .read 0x04#8 :=
  ⟨allAt100, { allAt100 with vehicle := { allAt100.vehicle with batt := { allAt100.vehicle.batt with cur := some 100 } } },
    by decide, rfl, by decide⟩

theorem witness_StaleParkAndLockStillActivate : ∃ s : State, admissible s.cfg = true ∧ s.vehicle.isParked = true
    ∧ s.vehicle.isUnlocked = true ∧ s.actuator.release = false ∧ s.actuator.rulePrev = false :=
  ⟨flags false true true, by decide⟩

/-- A transaction waits and the state meets the invariant. -/
theorem witness_EveryStepKeepsTheInvariant : (waiting (frameBus 0x012 8 0x10000000 5)).Inv
    ∧ ∃ t, step (waiting (frameBus 0x012 8 0x10000000 5)) = .next t ∧ t.vehicle.isParked = true := by
  refine ⟨?_, _, rfl, by decide⟩
  constructor <;> first | decide | (constructor <;> decide)

theorem witness_ConfigurationNeverChanges : ∃ t, stepN 1 (waiting { Transaction.blank .reset with val := 1 }) = .next t := ⟨_, rfl⟩

theorem witness_CodecRoundTrip :
    (fieldValid State.reset.cfg.extractRange (63#8).toNat (64#8).toNat = true ∧ (0xFFFFFFFFFFFFFFFF#64).toNat < 2 ^ (64#8).toNat)
    ∧ fieldValid exMsb.extractRange (11#8).toNat (2#8).toNat = true ∧ (3#64).toNat < 2 ^ (2#8).toNat := by decide

/-- Two fields side by side in one byte, the second one above the first and the first above the second. -/
theorem witness_DisjointFieldsAreIsolated :
    fieldValid State.reset.cfg.extractRange (3#8).toNat (4#8).toNat = true
    ∧ fieldValid State.reset.cfg.extractRange (7#8).toNat (4#8).toNat = true
    ∧ (3#8).toNat < (7#8).toNat + 1 - (4#8).toNat := by decide

theorem witness_CodecCommutesWithEveryInstruction :
    Instr.opcode (.extract P 11 2) = .extract ∧ Instr.opcode (.set P 11 2 3) = .set := ⟨rfl, rfl⟩

theorem witness_StatusSpaceIsReadOnly : ∀ i ∈ [Instr.read 0xFF, .extract P 11 2, .set P 11 2 3],
    i.opcode ≠ .frame ∧ i.opcode ≠ .ready ∧ i.opcode ≠ .act ∧ i.opcode ≠ .reset := by decide

theorem witness_SignalRegisterLayout :
    ((0x02#8) = 0x02#8 ∧ some 1 = lockAt100.vehicle.lock.cur.map (·.toNat) ∧ none = lockAt100.vehicle.lock.prev.map (·.toNat))
    ∧ (0x04#8) = 0x04#8 ∧ some 1 = allAt100.vehicle.batt.cur.map (·.toNat) ∧ none = allAt100.vehicle.batt.prev.map (·.toNat) := by
  decide

theorem witness_TimeRegistersAndReservedAddresses : ∀ addr ∈ [0x05#8, 0x09, 0x0A, 0xFF], 0x05 ≤ addr.toNat := forall_of_all (by decide)

end Sys2Proof.Tests
end

/-! PROOFS. The family of 40_codec.md: `EXTRACT` and `SET` against every instruction. -/

namespace Sys2Proof.Machine

/-! ## `RESULT` is written and never read -/

@[simp] theorem State.withResult_withResult (s : State) (r q : Word) : (s.withResult r).withResult q = s.withResult q := rfl

/-- The status space has no register for `RESULT` (44_observability.md R191 to R194). -/
@[simp] theorem statusReg_withResult (s : State) (r : Word) (addr : BitVec 8) :
    statusReg (s.withResult r) addr = statusReg s addr := rfl

/-- No instruction depends on the `RESULT` the one before it left. -/
theorem exec_withResult (j : Instr) (s : State) (r : Word) : exec j (s.withResult r) = exec j s := by
  cases j with
  | read addr => simp only [exec_read, statusReg_withResult, State.withResult_withResult]
  | _ => simp

/-! ## Every instruction answers a next state -/

/-- No instruction stops the block (60_exceptions.md R200) or changes its configuration (10_state.md R36). -/
theorem exec_eq_next_and_cfg_eq (j : Instr) (s : State) : ∃ t, exec j s = .next t ∧ t.cfg = s.cfg := by
  cases j with
  | frameLamp len data ts => exact ⟨_, exec_frameLamp len data ts s, rfl⟩
  | frameLock len data ts => exact ⟨_, exec_frameLock len data ts s, rfl⟩
  | framePark len data ts => exact ⟨_, exec_framePark len data ts s, rfl⟩
  | frameBatt len data ts => exact ⟨_, exec_frameBatt len data ts s, rfl⟩
  | frameOther id len data ts => exact ⟨_, exec_frameOther id len data ts s, rfl⟩
  | ready now => exact ⟨_, exec_ready now s, rfl⟩
  | act now btnN => exact ⟨_, exec_act now btnN s, rfl⟩
  | extract data msb wid => exact ⟨_, exec_extract data msb wid s, rfl⟩
  | set data msb wid val => exact ⟨_, exec_set data msb wid val s, rfl⟩
  | read addr => exact ⟨_, exec_read addr s, rfl⟩
  | reset => exact ⟨_, exec_reset s, rfl⟩

/-! ## The codec instructions -/

/-- Under one configuration a codec instruction writes one and the same `RESULT` into every state, and nothing else
(40_codec.md R101, R102, R105). -/
theorem exec_codec_eq_withResult {i : Instr} (hi : i.opcode = .extract ∨ i.opcode = .set) (c : Config) :
    ∃ r : Word, ∀ u : State, u.cfg = c → exec i u = .next (u.withResult r) := by
  cases i with
  | extract data msb wid =>
    refine ⟨field c.extractRange data msb.toNat wid.toNat, ?_⟩
    rintro u rfl
    exact exec_extract data msb wid u
  | set data msb wid val =>
    refine ⟨setField c.extractRange data msb.toNat wid.toNat val, ?_⟩
    rintro u rfl
    exact exec_set data msb wid val u
  | _ => simp [Instr.opcode] at hi

/-- Settles O56: a codec instruction writes a `RESULT` fixed by the configuration alone, every instruction ignores the
`RESULT` it finds and keeps the configuration, so the two orders differ in `RESULT` only. -/
theorem codecCommutesWithEveryInstruction : Obligations.CodecCommutesWithEveryInstruction := by
  intro i j s hi
  obtain ⟨r, hr⟩ := exec_codec_eq_withResult hi s.cfg
  obtain ⟨t, ht, hcfg⟩ := exec_eq_next_and_cfg_eq j s
  exact ⟨r, hr, t, ht, (exec_withResult j s r).trans ht, hr t hcfg⟩

end Sys2Proof.Machine

/-! PROOFS. The family of 41_frame_parsers.md: what the parsers accept and return. -/

namespace Sys2Proof.Machine

/-- Acceptance tests the identifier and the length, and nothing of the payload (41_frame_parsers.md R121, R126). -/
theorem parseSignal_valid_iff (c : Config) (k : Signal) (w : Nat) (f : Frame) :
    (parseSignal c k w f).valid = true ↔ f.identifier = c.idOf k ∧ f.length.val = 8 := by
  unfold parseSignal
  split
  case isTrue hreject => simpa [← not_and_or] using hreject
  case isFalse haccept => simpa [not_or] using haccept

/-- An accepted frame yields the field its signal's descriptor names (41_frame_parsers.md R121). -/
theorem parseSignal_value_of_valid {c : Config} {k : Signal} {w : Nat} {f : Frame}
    (hvalid : (parseSignal c k w f).valid = true) :
    (parseSignal c k w f).value =
      (field c.extractRange f.payload (descriptor k).msb (descriptor k).width).setWidth w := by
  obtain ⟨hid, hlen⟩ := (parseSignal_valid_iff c k w f).mp hvalid
  simp [parseSignal, hid, hlen]

/-- Settles O22: each parser is the template of R121 at its own signal, and the field its descriptor names is the listed
part of one payload byte (20_memory.md R58). -/
theorem parsersReturnTheirField : Obligations.ParsersReturnTheirField := by
  intro c f
  refine ⟨⟨?lampValid, ?lampValue⟩, ⟨?lockValid, ?lockValue⟩, ⟨?parkValid, ?parkValue⟩, ?battValid, ?battValue⟩
  case lampValid => exact parseSignal_valid_iff c .lamp 2 f
  case lampValue => exact fun h => (parseSignal_value_of_valid h).trans (field_lamp c.extractRange f.payload)
  case lockValid => exact parseSignal_valid_iff c .lock 2 f
  case lockValue => exact fun h => (parseSignal_value_of_valid h).trans (field_lock c.extractRange f.payload)
  case parkValid => exact parseSignal_valid_iff c .park 4 f
  case parkValue => exact fun h => (parseSignal_value_of_valid h).trans (field_park c.extractRange f.payload)
  case battValid => exact parseSignal_valid_iff c .batt 7 f
  case battValue => exact fun h => (parseSignal_value_of_valid h).trans (field_batt c.extractRange f.payload)

end Sys2Proof.Machine

/-! PROOFS. The family of 42_aggregator.md: the derived booleans follow the accepted updates and nothing else. -/

namespace Sys2Proof.Machine

/-! ## The predicates, on every number -/

theorem lampActive_iff (v : Nat) : lampActive v = true ↔ v = 1 ∨ v = 2 := by simp [lampActive]

theorem unlocked_iff (v : Nat) : unlocked v = true ↔ v = 2 ∨ v = 3 := by simp [unlocked]

theorem parked_iff (v : Nat) : parked v = true ↔ v = 1 := by simp [parked]

/-- Settles O23: an accepted frame stores the extracted code and the predicate of that same code. -/
theorem derivedBooleansFollowTheirPredicates : Obligations.DerivedBooleansFollowTheirPredicates := by
  refine ⟨fun v => ⟨lampActive_iff v, unlocked_iff v, parked_iff v⟩, fun s data ts => ⟨?lamp, ?lock, ?park⟩⟩
  case lamp => exact ⟨_, _, exec_frameLamp 8 data ts s, rfl, lampActive_iff _⟩
  case lock => exact ⟨_, _, exec_frameLock 8 data ts s, rfl, unlocked_iff _⟩
  case park => exact ⟨_, _, exec_framePark 8 data ts s, rfl, parked_iff _⟩

/-! ## What an instruction can do to the Vehicle State -/

/-- The Vehicle State with the accepted update of `i` stored, if `i` is one (42_aggregator.md R140 to R144). -/
def VehicleState.afterUpdate (v : VehicleState) (i : Instr) : VehicleState where
  lamp := (lampUpdate i).elim v.lamp fun u => v.lamp.accept u.1 u.2
  lock := (lockUpdate i).elim v.lock fun u => v.lock.accept u.1 u.2
  park := (parkUpdate i).elim v.park fun u => v.park.accept u.1 u.2
  batt := (battUpdate i).elim v.batt fun u => v.batt.accept u.1 u.2
  bedlightOn := (lampUpdate i).elim v.bedlightOn fun u => lampActive u.1.toNat
  isUnlocked := (lockUpdate i).elim v.isUnlocked fun u => unlocked u.1.toNat
  isParked := (parkUpdate i).elim v.isParked fun u => parked u.1.toNat
  systemReady := v.systemReady

/-- Every instruction but `RESET` stores its accepted update, if it is one, and otherwise touches at most
`system_ready`. -/
theorem exec_vehicle_eq_afterUpdate {i : Instr} {s t : State} (h : exec i s = .next t) (hi : isReset i = false) :
    t.vehicle = { s.vehicle.afterUpdate i with systemReady := t.vehicle.systemReady } := by
  cases i
  case frameLamp len _ _ | frameLock len _ _ | framePark len _ _ | frameBatt len _ _ =>
    simp only [exec_frameLamp, exec_frameLock, exec_framePark, exec_frameBatt, Host.Outcome.next.injEq] at h
    subst h
    by_cases hlen : len.val = 8 <;>
      simp [VehicleState.afterUpdate, lampUpdate, lockUpdate, parkUpdate, battUpdate, hlen]
  case frameOther | ready | act | extract | set | read =>
    cases h
    rfl
  case reset => cases hi

/-! ## What an `ACT` reads of the Vehicle State -/

/-- The activation rule and the bedlight read the three derived booleans and `system_ready`, no signal register
(43_actuation.md R172, R173). -/
theorem actuatorAfter_withSignals (c : Config) (v : VehicleState) (a : ActuatorState) (now : Timestamp) (btnN : Bool)
    (lamp lock : SignalRegs 2) (park : SignalRegs 4) (batt : SignalRegs 7) :
    actuatorAfter c { v with lamp := lamp, lock := lock, park := park, batt := batt } a now btnN
      = actuatorAfter c v a now btnN := rfl

/-- Settles O24: an instruction stores its own accepted update and moves no other derived boolean, and `ACT` computes
the actuator, and from it the events, without the signal registers. -/
theorem derivedBooleansDoNotDecay : Obligations.DerivedBooleansDoNotDecay := by
  refine ⟨fun i s t h hi => ?frame, fun s now btnN lamp lock park batt => ?act⟩
  case frame =>
    rw [exec_vehicle_eq_afterUpdate h hi]
    refine ⟨fun hlamp => ?_, fun hlock => ?_, fun hpark => ?_⟩
    · simp [VehicleState.afterUpdate, hlamp]
    · simp [VehicleState.afterUpdate, hlock]
    · simp [VehicleState.afterUpdate, hpark]
  case act =>
    refine ⟨_, _, exec_act now btnN s, exec_act now btnN _, ?actuator, ?events⟩
    case actuator => exact actuatorAfter_withSignals s.cfg s.vehicle s.actuator now btnN lamp lock park batt
    case events => simp only [State.emit_events, State.withResult_events, actuatorAfter_withSignals]

end Sys2Proof.Machine

/-! PROOFS. The family of 43_actuation.md: what an `ACT` does to an active output. -/

namespace Sys2Proof.Machine

/-- The activation rule as its three conjuncts (43_actuation.md R173). -/
theorem activationRule_eq_true_iff {v : VehicleState} :
    activationRule v = true ↔ v.systemReady = true ∧ v.isParked = true ∧ v.isUnlocked = true := by
  simp only [activationRule, Bool.and_eq_true, and_assoc]

/-- The window is still open exactly before `FIXED_DURATION` has elapsed (43_actuation.md R176). -/
theorem windowOver_eq_false_iff {c : Config} {now startedAt : Timestamp} :
    windowOver c now startedAt = false ↔ elapsed c now startedAt < c.fixedDuration := by
  simp only [windowOver, decide_eq_false_iff_not, not_le]

/-- A step writes the release output exactly when it changes it, with the new value and its own time
(43_actuation.md R178). -/
theorem writeReleaseOutput_mem_writeEvents_iff {before after : ActuatorState} {now u : Timestamp} {b : Bool} :
    OutputEvent.writeReleaseOutput b u ∈ writeEvents before after now
      ↔ after.release ≠ before.release ∧ b = after.release ∧ u = now := by
  simp [writeEvents]

/-- An active output stays on at an `ACT` inside the window while the rule is true (43_actuation.md R175 to R177). -/
theorem releaseAfter_of_sustained {c : Config} {v : VehicleState} {a : ActuatorState} {now : Timestamp}
    (hon : a.release = true) (hrule : activationRule v = true)
    (hwin : elapsed c now a.startedAt < c.fixedDuration) : releaseAfter c v a now = true := by
  rw [releaseAfter_of_active c v a now hon, hrule, windowOver_eq_false_iff.2 hwin]
  rfl

/-- Settles O36: an active output is not activated again, so its start stays; inside the window a true rule keeps the
output on, and an output that does not change emits no event. -/
theorem sustainedRuleKeepsTheStart : Obligations.SustainedRuleKeepsTheStart := by
  refine fun s now btnN hon =>
    ⟨_, exec_act now btnN s, startedAtAfter_of_active s.cfg s.vehicle s.actuator now hon,
      fun hready hparked hunlocked hwin => ?inside⟩
  case inside =>
    have hstays : releaseAfter s.cfg s.vehicle s.actuator now = true :=
      releaseAfter_of_sustained hon (activationRule_eq_true_iff.2 ⟨hready, hparked, hunlocked⟩) hwin
    refine ⟨hstays, fun b u hmem => ?_⟩
    rw [State.emit_events, State.withResult_events, List.drop_left, writeReleaseOutput_mem_writeEvents_iff] at hmem
    exact hmem.1 (hstays.trans hon.symm)

end Sys2Proof.Machine

/-! PROOFS. The family of 44_observability.md: nothing is writable through the status space. -/

namespace Sys2Proof.Machine

/-- Settles O57: the four excluded opcodes leave `READ`, `EXTRACT` and `SET`, and each of these answers the state it found
with a new `RESULT` (40_codec.md R101, R102; 44_observability.md R190). -/
theorem statusSpaceIsReadOnly : Obligations.StatusSpaceIsReadOnly := by
  intro i s hframe hready hact hreset
  cases i with
  | read addr => exact ⟨_, exec_read addr s, rfl⟩
  | extract data msb wid => exact ⟨_, exec_extract data msb wid s, rfl⟩
  | set data msb wid val => exact ⟨_, exec_set data msb wid val s, rfl⟩
  | frameLamp | frameLock | framePark | frameBatt | frameOther => exact absurd rfl hframe
  | ready => exact absurd rfl hready
  | act => exact absurd rfl hact
  | reset => exact absurd rfl hreset

end Sys2Proof.Machine

/-! PROOFS. The family of 60_exceptions.md: every instruction completes, and the hard invariant of the release output. -/

namespace Sys2Proof.Machine

/-! ## What an instruction leaves unchanged -/

/-- An instruction that is neither `ACT` nor `RESET` is confined to the Vehicle State and `RESULT` (10_state.md R39). -/
theorem exec_eq_withVehicleAndResult {i : Instr} {s t : State} (h : exec i s = .next t) (hact : actNow i = none)
    (hreset : isReset i = false) : t = { s with vehicle := t.vehicle, result := t.result } := by
  cases i with
  | frameLamp | frameLock | framePark | frameBatt | frameOther | ready | extract | set | read =>
    cases h
    rfl
  | act => cases hact
  | reset => cases hreset

/-- No instruction takes or presents a transaction: the inbox is the host's side (20_memory.md R60). -/
theorem exec_inbox_eq {i : Instr} {s t : State} (h : exec i s = .next t) : t.inbox = s.inbox := by
  cases i with
  | act | reset =>
    cases h
    rfl
  | _ => rw [exec_eq_withVehicleAndResult h rfl rfl]

/-- Settles O13: each instruction has its next state under the same configuration, and none touches the inbox. -/
theorem everyInstructionCompletes : Obligations.EveryInstructionCompletes := by
  intro i s
  obtain ⟨t, ht, hcfg⟩ := exec_eq_next_and_cfg_eq i s
  exact ⟨t, ht, hcfg, exec_inbox_eq ht⟩

/-! ## What an active output says after an `ACT` -/

/-- Under both re-arm policies a rising edge needs the rule (43_actuation.md R174, R179). -/
theorem rule_of_risingEdge {c : Config} {a : ActuatorState} {rule : Bool} (h : risingEdge c a rule = true) :
    rule = true := by
  unfold risingEdge at h
  split at h <;> exact (Bool.and_eq_true_iff.1 h).1

/-- An output that passes part (3) of `ACT` active was activated on an edge of the rule, or was active and not turned off
by a false rule (43_actuation.md R174, R175). -/
theorem activationRule_of_releaseAfterRule {c : Config} {v : VehicleState} {a : ActuatorState}
    (h : releaseAfterRule c v a = true) : activationRule v = true := by
  cases hact : activates c v a with
  | true => exact rule_of_risingEdge (Bool.and_eq_true_iff.1 hact).1
  | false =>
    cases hrule : activationRule v with
    | true => rfl
    | false => cases hon : a.release <;> simp [releaseAfterRule, hact, hrule, hon] at h

/-- The timer has the last word: the output is active after `ACT` exactly when it passes part (3) and its window, from the
start the step leaves, is still open (43_actuation.md R176). -/
theorem releaseAfter_eq_true_iff {c : Config} {v : VehicleState} {a : ActuatorState} {now : Timestamp} :
    releaseAfter c v a now = true ↔
      releaseAfterRule c v a = true ∧ elapsed c now (startedAtAfter c v a now) < c.fixedDuration := by
  rw [← windowOver_eq_false_iff]
  cases hrule : releaseAfterRule c v a <;> simp [releaseAfter, hrule]

/-- Settles O41: `ACT` leaves the output active only with a true rule and an open window, and leaves the Vehicle State and
the configuration the two are read from; no other instruction but `RESET` writes the actuator. -/
theorem hardInvariantAfterEveryAct : Obligations.HardInvariantAfterEveryAct := by
  refine ⟨fun s t now btnN h hon => ?afterAct, fun i s t h hact hreset => ?betweenActs⟩
  case afterAct =>
    cases h
    obtain ⟨hrule, hwindow⟩ := releaseAfter_eq_true_iff.1 hon
    exact ⟨activationRule_of_releaseAfterRule hrule, hwindow⟩
  case betweenActs => rw [exec_eq_withVehicleAndResult h hact hreset]

end Sys2Proof.Machine

/-! PROOFS. The family 'other', the codec: `EXTRACT` and `SET` as numbers and bits, and the two codec laws
(40_codec.md). -/

namespace Sys2Proof.Machine

/-! ## `Field` and `SetField` against each other -/

/-- The range rule as the conjunction the statements write out (40_codec.md R100). -/
theorem fieldValid_eq_true_iff (r : ExtractRange) (msb w : Nat) :
    fieldValid r msb w = true ↔
      1 ≤ w ∧ w ≤ 64 ∧ msb ≤ 63 ∧ w ≤ msb + 1 ∧ (r = .msbPlusWidth → msb + w ≤ 64) := by
  simp only [fieldValid_iff, and_assoc]

/-- Masking with `mask(w)` reduces modulo `2^w` (00_scope.md R10). -/
theorem and_mask_toNat (v : Word) {w : Nat} (hw : w ≤ 64) : (v &&& mask w).toNat = v.toNat % 2 ^ w := by
  have hpos := Nat.two_pow_pos w
  have hpow : 2 ^ w ≤ 2 ^ 64 := Nat.pow_le_pow_right (by decide) hw
  have hlt : 2 ^ w - 1 < 2 ^ 64 := by omega
  rw [mask, BitVec.toNat_and, BitVec.toNat_ofNat, Nat.mod_eq_of_lt hlt, Nat.and_two_pow_sub_one_eq_mod]

/-- `Field` in range as a number: the payload shifted down and reduced (40_codec.md R101). -/
theorem field_toNat {r : ExtractRange} {msb w : Nat} (h : fieldValid r msb w = true) (P : Payload) :
    (field r P msb w).toNat = P.toNat / 2 ^ (msb + 1 - w) % 2 ^ w := by
  obtain ⟨-, h64, -⟩ := (fieldValid_eq_true_iff r msb w).1 h
  rw [field, if_pos h, and_mask_toNat _ h64, BitVec.toNat_ushiftRight, Nat.shiftRight_eq_div_pow]

/-- A field read where it was just set holds the low `w` bits of the value (40_codec.md R106). -/
theorem field_setField_same {r : ExtractRange} {msb w : Nat} (h : fieldValid r msb w = true) (P : Payload) (v : Word) :
    field r (setField r P msb w v) msb w = v &&& mask w := by
  obtain ⟨h1, h64, h63, hle, -⟩ := (fieldValid_eq_true_iff r msb w).1 h
  apply BitVec.eq_of_getLsbD_eq
  intro j hj
  rw [field_getLsbD h, setField_getLsbD h, BitVec.getLsbD_and, mask_getLsbD]
  by_cases hjw : j < w
  · have hin : msb + 1 - w ≤ msb + 1 - w + j ∧ msb + 1 - w + j ≤ msb := by omega
    simp [hjw, hj, hin]
  · simp [hjw]

/-- A field read apart from the one that was set is as before (40_codec.md section 4). -/
theorem field_setField_disjoint {r : ExtractRange} {ma wa mb wb : Nat} (ha : fieldValid r ma wa = true)
    (hb : fieldValid r mb wb = true) (hdisj : ma < mb + 1 - wb ∨ mb < ma + 1 - wa) (P : Payload) (v : Word) :
    field r (setField r P mb wb v) ma wa = field r P ma wa := by
  obtain ⟨-, -, -, hle, -⟩ := (fieldValid_eq_true_iff r ma wa).1 ha
  apply BitVec.eq_of_getLsbD_eq
  intro j _
  rw [field_getLsbD ha, field_getLsbD ha, setField_getLsbD hb]
  by_cases hjw : j < wa
  · have hout : ¬(mb + 1 - wb ≤ ma + 1 - wa + j ∧ ma + 1 - wa + j ≤ mb) := by omega
    rw [if_neg hout]
  · simp [hjw]

/-! ## The instructions -/

/-- Settles O52: in range `Field` is the shifted and reduced payload, out of range it is 0, and `EXTRACT` writes it to
`RESULT` alone. -/
theorem extractReturnsTheField : Obligations.ExtractReturnsTheField := by
  intro s data msb wid
  have hfield : field s.cfg.extractRange data msb.toNat wid.toNat =
      if fieldValid s.cfg.extractRange msb.toNat wid.toNat = true
      then BitVec.ofNat 64 (data.toNat / 2 ^ (msb.toNat + 1 - wid.toNat) % 2 ^ wid.toNat) else 0 := by
    split
    case isTrue hv => rw [← field_toNat hv, BitVec.ofNat_toNat, BitVec.setWidth_eq]
    case isFalse hv => exact field_out_of_range (Bool.not_eq_true _ ▸ hv) data
  simp only [fieldValid_eq_true_iff] at hfield
  rw [exec_extract, hfield]
  rfl

/-- Settles O53: the bits of `SetField` in range, the unchanged payload out of range, written to `RESULT` alone. -/
theorem setWritesOnlyTheField : Obligations.SetWritesOnlyTheField := by
  intro s data msb wid val
  refine ⟨_, exec_set data msb wid val s, rfl, fun j => ?_⟩
  simp only [← fieldValid_eq_true_iff, State.withResult_result]
  cases hv : fieldValid s.cfg.extractRange msb.toNat wid.toNat with
  | true => simp [setField_getLsbD hv]
  | false => simp [setField_out_of_range hv]

/-- Settles O54: the field just set holds the value reduced modulo `2^w`, which is the value itself below `2^w`. -/
theorem codecRoundTrip : Obligations.CodecRoundTrip := by
  intro s data msb wid val hv hval
  obtain ⟨-, h64, -⟩ := (fieldValid_eq_true_iff _ _ _).1 hv
  refine ⟨_, _, exec_set data msb wid val s, exec_extract _ msb wid _, BitVec.eq_of_toNat_eq ?_⟩
  simp only [State.withResult_result, State.withResult_cfg]
  rw [field_setField_same hv, and_mask_toNat _ h64, Nat.mod_eq_of_lt hval]

/-- Settles O55: the second `SET` leaves the first one's field as it was, and each field read where it was set holds its
value modulo its width. -/
theorem disjointFieldsAreIsolated : Obligations.DisjointFieldsAreIsolated := by
  intro s data ma wa mb wb a b ha hb hdisj
  obtain ⟨-, ha64, -⟩ := (fieldValid_eq_true_iff _ _ _).1 ha
  obtain ⟨-, hb64, -⟩ := (fieldValid_eq_true_iff _ _ _).1 hb
  refine ⟨_, _, _, _, exec_set data ma wa a s, exec_set _ mb wb b _, exec_extract _ ma wa _, ?first,
    exec_extract _ mb wb _, ?second⟩
  case first =>
    simp only [State.withResult_result, State.withResult_cfg]
    rw [field_setField_disjoint ha hb hdisj, field_setField_same ha, and_mask_toNat _ ha64]
  case second =>
    simp only [State.withResult_result, State.withResult_cfg]
    rw [field_setField_same hb, and_mask_toNat _ hb64]

end Sys2Proof.Machine

/-! PROOFS. The family 'other', the decoder: decode and encode agree, the table's rows, the buses an opcode reads, and the
pseudo-operations (30_encoding.md). -/

namespace Sys2Proof.Machine

/-! ## What a decoded transaction is -/

/-- A frame transaction that decodes is the row of its classified identifier, its time on `W` bits (30_encoding.md R83,
R87). -/
theorem decodeFrame_eq_ok_iff {c : Config} {t : Transaction} {i : Instr} :
    decodeFrame c t = .ok i ↔ ∃ len : Fin 9, t.len = BitVec.ofNat 4 len.val ∧
      i = frameInstr (classify c t.id) t.id len t.data (wrapTime c t.ts) := by
  unfold decodeFrame
  split
  case isTrue hlen =>
    constructor
    · intro h
      cases h
      exact ⟨⟨t.len.toNat, hlen⟩, by simp, rfl⟩
    · rintro ⟨len, heq, rfl⟩
      have hval : t.len.toNat = len.val := by
        have := len.isLt
        rw [heq, BitVec.toNat_ofNat, Nat.mod_eq_of_lt (by omega)]
      have hfin : (⟨t.len.toNat, hlen⟩ : Fin 9) = len := Fin.ext hval
      rw [hfin]
  case isFalse hlen =>
    simp only [reduceCtorEq, false_iff, not_exists, not_and]
    intro len heq
    have := len.isLt
    rw [heq, BitVec.toNat_ofNat, Nat.mod_eq_of_lt (by omega)] at hlen
    exact absurd this hlen

/-- Everything the decoder can answer, opcode by opcode (30_encoding.md R81, R82). -/
theorem decode_cases {c : Config} {t : Transaction} {i : Instr} (h : decode c t = .ok i) :
    (t.op = 0x1#4 ∧ ∃ len : Fin 9, t.len = BitVec.ofNat 4 len.val ∧
        i = frameInstr (classify c t.id) t.id len t.data (wrapTime c t.ts))
    ∨ (t.op = 0x2#4 ∧ i = .ready (wrapTime c t.now))
    ∨ (t.op = 0x3#4 ∧ i = .act (wrapTime c t.now) t.btnN)
    ∨ (t.op = 0x4#4 ∧ i = .extract t.data t.msb t.wid)
    ∨ (t.op = 0x5#4 ∧ i = .set t.data t.msb t.wid t.val)
    ∨ (t.op = 0x6#4 ∧ i = .read t.addr)
    ∨ (t.op = 0x7#4 ∧ i = .reset) := by
  cases ho : decodeOp t.op with
  | none => simp [decode, ho] at h
  | some o =>
    have hop : t.op = encodeOp o := decodeOp_eq_some.1 ho
    cases o
    case frame =>
      simp only [decode, ho] at h
      exact .inl ⟨hop, decodeFrame_eq_ok_iff.1 h⟩
    all_goals
      simp only [decode, ho, Except.ok.injEq] at h
      simp [hop, encodeOp, h.symm]

/-- The row of a classified frame spells that frame's transaction again (30_encoding.md R83). -/
theorem encode_frameInstr (c : Config) (id : Identifier) (len : Fin 9) (data : Payload) (ts : Timestamp) :
    encode c (frameInstr (classify c id) id len data ts) = encodeFrame id len data ts := by
  cases hk : classify c id with
  | none => rfl
  | some k =>
    obtain rfl := idOf_of_classify hk
    cases k <;> rfl

/-- `FRAME.OTHER` is well formed when its time fits and its identifier classifies as no signal. -/
theorem wellFormed_frameOther_iff {c : Config} {id : Identifier} {len : Fin 9} {data : Payload} {ts : Timestamp} :
    (Instr.frameOther id len data ts).wellFormed c = true ↔ timeFits c ts = true ∧ classify c id = none := by
  simp only [Instr.wellFormed, Bool.and_eq_true, bne_iff_ne, classify_eq_none, isRecognized, Bool.or_eq_false_iff,
    beq_eq_false_iff_ne, and_assoc]

/-- The row of a classified frame is well formed exactly when its time fits: `FRAME.OTHER` comes only from an identifier
that is none of the four. -/
theorem wellFormed_frameInstr_iff {c : Config} {id : Identifier} {len : Fin 9} {data : Payload} {ts : Timestamp} :
    (frameInstr (classify c id) id len data ts).wellFormed c = true ↔ timeFits c ts = true := by
  cases hk : classify c id with
  | none => exact wellFormed_frameOther_iff.trans (and_iff_left hk)
  | some k => cases k <;> exact Iff.rfl

theorem opcode_frameInstr (k : Option Signal) (id : Identifier) (len : Fin 9) (data : Payload) (ts : Timestamp) :
    (frameInstr k id len data ts).opcode = .frame := by
  rcases k with _ | k
  · rfl
  · cases k <;> rfl

/-- What a transaction decodes to is well formed: the decoder keeps the low `W` bits of a time. -/
theorem wellFormed_of_decode {c : Config} {t : Transaction} {i : Instr} (h : decode c t = .ok i) :
    i.wellFormed c = true := by
  rcases decode_cases h with ⟨-, len, -, rfl⟩ | ⟨-, rfl⟩ | ⟨-, rfl⟩ | ⟨-, rfl⟩ | ⟨-, rfl⟩ | ⟨-, rfl⟩ | ⟨-, rfl⟩
  · exact wellFormed_frameInstr_iff.2 (timeFits_wrapTime c t.ts)
  · exact timeFits_wrapTime c t.now
  · exact timeFits_wrapTime c t.now
  all_goals rfl

/-! ## Decode and encode agree -/

/-- Decoding the frame of a signal's own identifier selects that signal's row (30_encoding.md R83). -/
theorem decode_encodeFrame_idOf {c : Config} (h : admissible c = true) (k : Signal) (len : Fin 9) (data : Payload)
    (ts : Timestamp) :
    decode c (encodeFrame (c.idOf k) len data ts) = .ok (frameInstr (some k) (c.idOf k) len data (wrapTime c ts)) := by
  rw [decode_encodeFrame, classify_idOf h]

/-- Settles O6: the opcode comes back, distinct identifiers select the row, and a time that fits the bus passes it
unchanged. -/
theorem decodeOfEncodeIsTheInstruction : Obligations.DecodeOfEncodeIsTheInstruction := by
  intro c i h hwf
  cases i with
  | frameLamp len data ts =>
    exact (decode_encodeFrame_idOf h .lamp len data ts).trans (by rw [wrapTime_of_fits hwf]; rfl)
  | frameLock len data ts =>
    exact (decode_encodeFrame_idOf h .lock len data ts).trans (by rw [wrapTime_of_fits hwf]; rfl)
  | framePark len data ts =>
    exact (decode_encodeFrame_idOf h .park len data ts).trans (by rw [wrapTime_of_fits hwf]; rfl)
  | frameBatt len data ts =>
    exact (decode_encodeFrame_idOf h .batt len data ts).trans (by rw [wrapTime_of_fits hwf]; rfl)
  | frameOther id len data ts =>
    obtain ⟨hts, hother⟩ := wellFormed_frameOther_iff.1 hwf
    rw [encode, decode_encodeFrame, hother, wrapTime_of_fits hts]
    rfl
  | ready now => exact congrArg (fun u => Except.ok (Instr.ready u)) (wrapTime_of_fits hwf)
  | act now btnN => exact congrArg (fun u => Except.ok (Instr.act u btnN)) (wrapTime_of_fits hwf)
  | extract | set | read | reset => rfl

/-- Settles O7: the encoder's buses for each answer of the decoder. -/
theorem encodeOfDecodeIsTheTransaction : Obligations.EncodeOfDecodeIsTheTransaction := by
  intro c t i h hdec
  have hmod := wrapTime_toNat (admissible_width h).2
  refine ⟨wellFormed_of_decode hdec, ?_⟩
  rcases decode_cases hdec with ⟨hop, len, hlen, rfl⟩ | ⟨hop, rfl⟩ | ⟨hop, rfl⟩ | ⟨hop, rfl⟩ | ⟨hop, rfl⟩ | ⟨hop, rfl⟩ |
    ⟨hop, rfl⟩
  case inl =>
    rw [encode_frameInstr, opcode_frameInstr]
    exact ⟨hop.symm, fun _ => ⟨rfl, hlen.symm, rfl, hmod t.ts⟩, nofun, nofun, nofun, nofun, nofun⟩
  all_goals simp [Instr.opcode, encode, Transaction.blank, encodeOp, hop, hmod]

/-! ## The rows of the table -/

/-- Under distinct identifiers an identifier classifies as a signal exactly when it is that signal's (30_encoding.md
R83). -/
theorem classify_eq_some_iff {c : Config} (h : admissible c = true) {id : Identifier} {k : Signal} :
    classify c id = some k ↔ id = c.idOf k :=
  ⟨idOf_of_classify, fun hid => hid ▸ classify_idOf h k⟩

/-- The row `FRAME.k` selects the frames whose identifier classifies as `k` (30_encoding.md R83). -/
theorem frameRow_hits_iff_classify {c : Config} (h : admissible c = true) {k : Signal} {t : Transaction} :
    (frameRow c k).hits t = true ↔ t.op = 0x1#4 ∧ classify c t.id = some k := by
  rw [frameRow_hits, classify_eq_some_iff h]

/-- No row `FRAME.k` selects a frame exactly when its identifier classifies as no signal. -/
theorem frameRows_miss_iff_classify {c : Config} (h : admissible c = true) {t : Transaction} (hop : t.op = 0x1#4) :
    (∀ k, (frameRow c k).hits t = false) ↔ classify c t.id = none := by
  simp only [← Bool.not_eq_true, frameRow_hits_iff_classify h, hop, true_and, Option.eq_none_iff_forall_ne_some, ne_eq]

/-- Settles O8: on a frame each row is the classification of the identifier, and `frameInstr` follows that classification;
on any other opcode no row matches and no `FRAME` comes out. -/
theorem frameRowsSelectTheSubOperation : Obligations.FrameRowsSelectTheSubOperation := by
  intro c t i h hdec
  rcases decode_cases hdec with ⟨hop, len, -, rfl⟩ | ⟨hop, rfl⟩ | ⟨hop, rfl⟩ | ⟨hop, rfl⟩ | ⟨hop, rfl⟩ | ⟨hop, rfl⟩ |
    ⟨hop, rfl⟩
  case inl =>
    simp only [frameRow_hits_iff_classify h, frameRows_miss_iff_classify h hop, opRow_frame_hits, hop, true_and]
    rcases classify c t.id with _ | k
    · simp [frameInstr]
    · cases k <;> simp [frameInstr]
  all_goals simp [frameRow_hits, opRow_frame_hits, hop]

/-! ## The buses an opcode reads -/

/-- Settles O9: by the opcode, each answer of the decoder is written in the buses of its own format. -/
theorem unreadBusesAreIgnored : Obligations.UnreadBusesAreIgnored := by
  intro c t u hop hframe hready hact hextract hset hread
  cases ho : decodeOp t.op with
  | none => simp [decode, ← hop, ho]
  | some o =>
    have hcode : t.op = encodeOp o := decodeOp_eq_some.1 ho
    simp only [decode, ← hop, ho]
    cases o with
    | frame =>
      obtain ⟨hid, hlen, hdata, hts⟩ := hframe hcode
      simp only [decodeFrame, hid, hlen, hdata, hts]
    | ready => simp only [hready hcode]
    | act =>
      obtain ⟨hnow, hbtn⟩ := hact hcode
      simp only [hnow, hbtn]
    | extract =>
      obtain ⟨hdata, hmsb, hwid⟩ := hextract hcode
      simp only [hdata, hmsb, hwid]
    | set =>
      obtain ⟨hdata, hmsb, hwid, hval⟩ := hset hcode
      simp only [hdata, hmsb, hwid, hval]
    | read => simp only [hread hcode]
    | reset => rfl

/-- Settles O10: six closed evaluations of the decoder. -/
theorem spelledTransactionsDecode : Obligations.SpelledTransactionsDecode :=
  ⟨rfl, rfl, rfl, rfl, rfl, rfl⟩

/-! ## The pseudo-operations -/

/-- The payload of `FRAME.k v` holds `v` in its signal's field (30_encoding.md R91; 40_codec.md R106). -/
theorem field_shiftLeft {r : ExtractRange} {msb w : Nat} (h : fieldValid r msb w = true) (v : BitVec w) :
    (field r (v.setWidth 64 <<< (msb + 1 - w)) msb w).setWidth w = v := by
  obtain ⟨-, h64, -⟩ := (fieldValid_eq_true_iff r msb w).1 h
  rw [← setField_zero h, field_setField_same h]
  apply BitVec.eq_of_toNat_eq
  have hv := v.isLt
  have hpow : 2 ^ w ≤ 2 ^ 64 := Nat.pow_le_pow_right (by decide) h64
  rw [BitVec.toNat_setWidth, and_mask_toNat _ h64, BitVec.toNat_setWidth, Nat.mod_eq_of_lt (a := v.toNat) (by omega),
    Nat.mod_mod, Nat.mod_eq_of_lt hv]

theorem lampCode_shiftLeft (v : BitVec 2) : (payloadByte (v.setWidth 64 <<< 10) 1 >>> 2).setWidth 2 = v :=
  (field_lamp .lowBit _).symm.trans (field_shiftLeft (fieldValid_descriptor _ .lamp) v)

theorem lockCode_shiftLeft (v : BitVec 2) : (payloadByte (v.setWidth 64 <<< 33) 4 >>> 1).setWidth 2 = v :=
  (field_lock .lowBit _).symm.trans (field_shiftLeft (fieldValid_descriptor _ .lock) v)

theorem parkCode_shiftLeft (v : BitVec 4) : (payloadByte (v.setWidth 64 <<< 28) 3 >>> 4).setWidth 4 = v :=
  (field_park .lowBit _).symm.trans (field_shiftLeft (fieldValid_descriptor _ .park) v)

theorem battCode_shiftLeft (v : BitVec 7) : (payloadByte (v.setWidth 64 <<< 16) 2).setWidth 7 = v :=
  (field_batt .lowBit _).symm.trans (field_shiftLeft (fieldValid_descriptor _ .batt) v)

/-- `FRAME.k v ts` decodes to its signal's row with length 8 and the payload written out (30_encoding.md R91). -/
theorem decode_frameShort {c : Config} (h : admissible c = true) {k : Signal} {w : Nat} (hw : (descriptor k).width = w)
    (v : BitVec w) (ts : Timestamp) :
    decode c (frameShort c k (v.setWidth 64) ts) =
      .ok (frameInstr (some k) (c.idOf k) 8 (v.setWidth 64 <<< ((descriptor k).msb + 1 - w)) (wrapTime c ts)) := by
  rw [frameShort_eq hw, decode_encodeFrame_idOf h]

/-- Settles O12: each `FRAME.k` decodes to its row, whose byte formula is the field just set; `CYCLE` is its frames
followed by the encodings of `READY` and `ACT`. -/
theorem pseudoOperationsExpand : Obligations.PseudoOperationsExpand := by
  intro c h
  refine ⟨fun v ts s _ => ⟨decode_frameShort h (k := .lamp) rfl v ts, _, exec_frameLamp _ _ _ s, ?lamp⟩,
    fun v ts s _ => ⟨decode_frameShort h (k := .lock) rfl v ts, _, exec_frameLock _ _ _ s, ?lock⟩,
    fun v ts s _ => ⟨decode_frameShort h (k := .park) rfl v ts, _, exec_framePark _ _ _ s, ?park⟩,
    fun v ts s _ => ⟨decode_frameShort h (k := .batt) rfl v ts, _, exec_frameBatt _ _ _ s, ?batt⟩,
    fun now btnN frames is hnow hframes => ?cycle⟩
  case lamp => exact congrArg some (lampCode_shiftLeft v)
  case lock => exact congrArg some (lockCode_shiftLeft v)
  case park => exact congrArg some (parkCode_shiftLeft v)
  case batt => exact congrArg some (battCode_shiftLeft v)
  case cycle =>
    have hready := decodeOfEncodeIsTheInstruction c (.ready now) h hnow
    have hact := decodeOfEncodeIsTheInstruction c (.act now btnN) h hnow
    exact decodeAll_append hframes (by simp [decodeAll, hready, hact])

end Sys2Proof.Machine

/-! PROOFS. The family 'other', the step: admission, refusals, and runs over the presented transactions (20_memory.md,
60_exceptions.md, 70_reset_and_hazards.md). -/

namespace Sys2Proof.Machine

/-! ## Why a transaction does not decode -/

/-- The decoder's two errors, each with its condition (30_encoding.md R84, R87). -/
theorem decode_error_cases {c : Config} {t : Transaction} {e : DecodeError} (h : decode c t = .error e) :
    (e = .reservedOpcode t.op ∧ (t.op.toNat = 0 ∨ 8 ≤ t.op.toNat))
    ∨ (e = .notAFrame t.len ∧ t.op = 0x1#4 ∧ 9 ≤ t.len.toNat) := by
  cases ho : decodeOp t.op with
  | none =>
    simp only [decode, ho, Except.error.injEq] at h
    exact .inl ⟨h.symm, decodeOp_eq_none.1 ho⟩
  | some o =>
    cases o <;> simp only [decode, ho, reduceCtorEq] at h
    case frame =>
      have hop : t.op = 0x1#4 := decodeOp_eq_some.1 ho
      unfold decodeFrame at h
      split at h
      case isTrue => cases h
      case isFalse hlen =>
        cases h
        exact .inr ⟨rfl, hop, Nat.le_of_not_lt hlen⟩

theorem decode_of_reserved {c : Config} {t : Transaction} (h : t.op.toNat = 0 ∨ 8 ≤ t.op.toNat) :
    decode c t = .error (.reservedOpcode t.op) := by
  simp [decode, decodeOp_eq_none.2 h]

theorem decode_of_longFrame {c : Config} {t : Transaction} (hop : t.op = 0x1#4) (hlen : 9 ≤ t.len.toNat) :
    decode c t = .error (.notAFrame t.len) := by
  have ho : decodeOp t.op = some .frame := decodeOp_eq_some.2 hop
  simp [decode, ho, decodeFrame, Nat.not_lt.2 hlen]

/-! ## What a step can do -/

theorem step_of_inadmissible {s : State} (h : admissible s.cfg = false) : step s = .refused .badConfiguration := by
  simp [step, h]

theorem step_of_idle {s : State} (h : admissible s.cfg = true) (hin : s.inbox = []) : step s = .next s := by
  simp [step, fetch, h, hin]

theorem step_of_decode_error {s : State} {t : Transaction} {rest : List Transaction} {e : DecodeError}
    (h : admissible s.cfg = true) (hin : s.inbox = t :: rest) (hdec : decode s.cfg t = .error e) :
    step s = .refused (refusalOf e) := by
  simp [step, fetch, h, hin, hdec]

theorem step_of_decode_ok {s : State} {t : Transaction} {rest : List Transaction} {i : Instr}
    (h : admissible s.cfg = true) (hin : s.inbox = t :: rest) (hdec : decode s.cfg t = .ok i) :
    step s = exec i { s with inbox := rest } := by
  simp [step, fetch, h, hin, hdec]

/-- A step refuses the configuration, idles, refuses a transaction, or performs one (60_exceptions.md R203). -/
theorem step_cases (s : State) :
    (admissible s.cfg = false ∧ step s = .refused .badConfiguration)
    ∨ (admissible s.cfg = true ∧ s.inbox = [] ∧ step s = .next s)
    ∨ (admissible s.cfg = true ∧ ∃ t rest, s.inbox = t :: rest ∧
        ((∃ e, decode s.cfg t = .error e ∧ step s = .refused (refusalOf e))
          ∨ ∃ i, decode s.cfg t = .ok i ∧ step s = exec i { s with inbox := rest })) := by
  cases h : admissible s.cfg with
  | false => exact .inl ⟨rfl, step_of_inadmissible h⟩
  | true =>
    rcases hin : s.inbox with _ | ⟨t, rest⟩
    · exact .inr (.inl ⟨rfl, rfl, step_of_idle h hin⟩)
    · refine .inr (.inr ⟨rfl, t, rest, rfl, ?_⟩)
      cases hdec : decode s.cfg t with
      | error e => exact .inl ⟨e, rfl, step_of_decode_error h hin hdec⟩
      | ok i => exact .inr ⟨i, rfl, step_of_decode_ok h hin hdec⟩

/-- No meaning refuses (60_exceptions.md R200). -/
theorem exec_ne_refused (i : Instr) (s : State) (r : Refusal) : exec i s ≠ .refused r := by
  obtain ⟨t, ht, -⟩ := exec_eq_next_and_cfg_eq i s
  simp [ht]

/-- A next state comes from an idle step or from a decoded instruction. -/
theorem step_eq_next_cases {s t : State} (h : step s = .next t) :
    t = s ∨ ∃ u rest i, s.inbox = u :: rest ∧ decode s.cfg u = .ok i ∧ exec i { s with inbox := rest } = .next t := by
  rcases step_cases s with ⟨-, hs⟩ | ⟨-, -, hs⟩ | ⟨-, u, rest, hin, ⟨e, -, hs⟩ | ⟨i, hdec, hs⟩⟩
  · simp [hs] at h
  · exact .inl (by simpa [hs, eq_comm] using h)
  · simp [hs] at h
  · exact .inr ⟨u, rest, i, hin, hdec, hs ▸ h⟩

/-- Settles O1: the two answers of an admissible step that refuses nothing. -/
theorem stepPerformsTheDecodedInstruction : Obligations.StepPerformsTheDecodedInstruction :=
  fun _ h => ⟨step_of_idle h, fun _ _ _ => step_of_decode_ok h⟩

/-- Settles O3: a reserved code is a decoding error, and the step names it. -/
theorem reservedOpcodesAreRefused : Obligations.ReservedOpcodesAreRefused :=
  fun _ _ _ h hin hop => step_of_decode_error h hin (decode_of_reserved hop)

/-- Settles O4: a length above 8 is a decoding error, and the step names it. -/
theorem lengthsAboveEightAreRefused : Obligations.LengthsAboveEightAreRefused :=
  fun _ _ _ h hin hop hlen => step_of_decode_error h hin (decode_of_longFrame hop hlen)

/-- Settles O5: of the four things a step can do two refuse, and the decoder has two errors. -/
theorem stepRefusesOnlyThreeThings : Obligations.StepRefusesOnlyThreeThings := by
  intro s r h
  rcases step_cases s with ⟨hadm, hs⟩ | ⟨-, -, hs⟩ | ⟨-, t, rest, hin, ⟨e, hdec, hs⟩ | ⟨i, -, hs⟩⟩ <;> rw [hs] at h
  · cases h
    exact .inl ⟨hadm, rfl⟩
  · cases h
  · cases h
    refine .inr ⟨t, rest, hin, ?_⟩
    rcases decode_error_cases hdec with ⟨rfl, hop⟩ | ⟨rfl, hop, hlen⟩
    · exact .inl ⟨rfl, hop⟩
    · exact .inr ⟨rfl, hop, hlen⟩
  · exact absurd h (exec_ne_refused i _ r)

/-- A step refuses the configuration exactly when it is inadmissible (70_reset_and_hazards.md R234). -/
theorem step_eq_badConfiguration_iff (s : State) : step s = .refused .badConfiguration ↔ admissible s.cfg = false := by
  refine ⟨fun h => ?_, step_of_inadmissible⟩
  rcases stepRefusesOnlyThreeThings s _ h with ⟨hadm, -⟩ | ⟨t, rest, -, ⟨hr, -⟩ | ⟨hr, -⟩⟩
  · exact hadm
  · cases hr
  · cases hr

/-- Settles O2: the refusal is inadmissibility, and admission is the list of R234. -/
theorem inadmissibleConfigurationTakesNoStep : Obligations.InadmissibleConfigurationTakesNoStep := by
  intro s
  rw [step_eq_badConfiguration_iff, ← Bool.not_eq_true, not_iff_not, admissible_iff]
  simp [and_assoc]

/-! ## Runs -/

theorem exec_cfg_eq {i : Instr} {s t : State} (h : exec i s = .next t) : t.cfg = s.cfg := by
  obtain ⟨u, hu, hcfg⟩ := exec_eq_next_and_cfg_eq i s
  rw [h] at hu
  cases hu
  exact hcfg

theorem execAll_cons_of_next {i : Instr} {s u : State} (h : exec i s = .next u) (is : List Instr) :
    execAll (i :: is) s = execAll is u := by
  simp [execAll, h]

/-- A run that answers a next state performs its first instruction and runs the rest from there. -/
theorem execAll_cons_eq_next {i : Instr} {is : List Instr} {s t : State} (h : execAll (i :: is) s = .next t) :
    ∃ u, exec i s = .next u ∧ execAll is u = .next t := by
  obtain ⟨u, hu, -⟩ := exec_eq_next_and_cfg_eq i s
  exact ⟨u, hu, execAll_cons_of_next hu is ▸ h⟩

/-- A list of transactions that decodes splits at its head. -/
theorem decodeAll_cons_eq_ok {c : Config} {t : Transaction} {ts : List Transaction} {is : List Instr}
    (h : decodeAll c (t :: ts) = .ok is) :
    ∃ i js, decode c t = .ok i ∧ decodeAll c ts = .ok js ∧ is = i :: js := by
  cases hi : decode c t with
  | error e => simp [decodeAll, hi] at h
  | ok i =>
    cases hjs : decodeAll c ts with
    | error e => simp [decodeAll, hi, hjs] at h
    | ok js =>
      simp only [decodeAll, hi, hjs, Except.ok.injEq] at h
      exact ⟨i, js, rfl, rfl, h.symm⟩

/-- What an instruction does does not depend on what waits in the inbox. -/
theorem exec_withInbox {i : Instr} {s t : State} (h : exec i s = .next t) (ts : List Transaction) :
    exec i { s with inbox := ts } = .next { t with inbox := ts } := by
  cases i <;> cases h <;> rfl

/-- Settles O11, by induction on the inbox: each step performs the head, and the rest of the inbox waits unchanged. -/
theorem runPerformsTransactionsInOrder : Obligations.RunPerformsTransactionsInOrder := by
  intro s is
  generalize hin : s.inbox = ts
  intro h hdec
  induction ts generalizing s is with
  | nil =>
    cases hdec
    obtain ⟨cfg, vehicle, actuator, result, events, inbox⟩ := s
    cases hin
    rfl
  | cons t ts ih =>
    obtain ⟨i, js, hi, hjs, rfl⟩ := decodeAll_cons_eq_ok hdec
    obtain ⟨u, hu, hcfg⟩ := exec_eq_next_and_cfg_eq i { s with inbox := ts }
    have hcfg : u.cfg = s.cfg := hcfg
    have hrest := ih u js (exec_inbox_eq hu) (hcfg ▸ h) (hcfg ▸ hjs)
    rw [execAll_cons_of_next (exec_withInbox hu []), ← hrest]
    simp only [List.length_cons, stepN, step_of_decode_ok h hin hi, hu]

/-- Settles O51, by induction on the number of steps. -/
theorem configurationNeverChanges : Obligations.ConfigurationNeverChanges := by
  intro n
  induction n with
  | zero =>
    intro s t h
    cases h
    rfl
  | succ n ih =>
    intro s t h
    cases hs : step s with
    | next u =>
      simp only [stepN, hs] at h
      have hu : u.cfg = s.cfg := by
        rcases step_eq_next_cases hs with rfl | ⟨_, rest, i, -, -, hexec⟩
        · rfl
        · exact exec_cfg_eq (s := { s with inbox := rest }) hexec
      exact (ih u t h).trans hu
    | fault f => simp [stepN, hs] at h
    | refused r => simp [stepN, hs] at h

end Sys2Proof.Machine

/-! PROOFS. The family 'other', reset and the frames: the state after power-up and `RESET`, the registers a frame writes,
and the signals' history (10_state.md, 41_frame_parsers.md, 42_aggregator.md section 1). -/

namespace Sys2Proof.Machine

/-- Settles O14: the reset records written out. -/
theorem powerUpHoldsTheResetValues : Obligations.PowerUpHoldsTheResetValues := ⟨rfl, fun _ => rfl⟩

/-- Settles O15: `RESET` writes the reset records and `RESULT` 0. -/
theorem resetRestoresEveryStateElement : Obligations.ResetRestoresEveryStateElement :=
  fun s => ⟨_, exec_reset s, rfl, rfl, rfl⟩

/-! ## One frame -/

/-- The predicates on the codes a register can hold (42_aggregator.md R145 to R147). -/
theorem lampActive_toNat (v : BitVec 2) : lampActive v.toNat = decide (v = 1 ∨ v = 2) := by revert v; decide

theorem unlocked_toNat (v : BitVec 2) : unlocked v.toNat = decide (v = 2 ∨ v = 3) := by revert v; decide

theorem parked_toNat (v : BitVec 4) : parked v.toNat = decide (v = 1) := by revert v; decide

/-- Settles O16: the two lengths' cases of the frame's meaning, with `bedlight_on` on the code. -/
theorem frameLampUpdatesTheLampSignal : Obligations.FrameLampUpdatesTheLampSignal := by
  rintro s len data ts v rfl
  rw [exec_frameLamp, lampActive_toNat]
  split <;> rfl

/-- Settles O17: the two lengths' cases of the frame's meaning, with `is_unlocked` on the code. -/
theorem frameLockUpdatesTheLockSignal : Obligations.FrameLockUpdatesTheLockSignal := by
  rintro s len data ts v rfl
  rw [exec_frameLock, unlocked_toNat]
  split <;> rfl

/-- Settles O18: the two lengths' cases of the frame's meaning, with `is_parked` on the code. -/
theorem frameParkUpdatesTheParkSignal : Obligations.FrameParkUpdatesTheParkSignal := by
  rintro s len data ts v rfl
  rw [exec_framePark, parked_toNat]
  split <;> rfl

/-- Settles O19: the two lengths' cases of the frame's meaning. -/
theorem frameBattUpdatesTheBatterySignal : Obligations.FrameBattUpdatesTheBatterySignal := by
  rintro s len data ts v rfl
  rw [exec_frameBatt]
  split <;> rfl

/-- Settles O20: the meaning of `FRAME.OTHER` is `RESULT` 0. -/
theorem frameOtherChangesNothing : Obligations.FrameOtherChangesNothing :=
  fun s id len data ts => exec_frameOther id len data ts s

/-! ## What a frame reads of its payload -/

/-- `Field` reads the bits of its own place only (20_memory.md section 3). -/
theorem field_congr {r : ExtractRange} {msb w : Nat} (h : fieldValid r msb w = true) {p q : Payload}
    (hbits : ∀ j, msb + 1 - w ≤ j → j ≤ msb → p.getLsbD j = q.getLsbD j) : field r p msb w = field r q msb w := by
  obtain ⟨-, -, -, hle, -⟩ := (fieldValid_eq_true_iff r msb w).1 h
  apply BitVec.eq_of_getLsbD_eq
  intro j _
  rw [field_getLsbD h, field_getLsbD h]
  by_cases hj : j < w
  · rw [hbits (msb + 1 - w + j) (by omega) (by omega)]
  · simp [hj]

/-- A parser reads its signal's field of a frame of length 8, and no payload bit of another frame (41_frame_parsers.md
R121). -/
theorem parseSignal_congr {c : Config} {k : Signal} {w : Nat} {id : Identifier} {len : Fin 9} {p q : Payload}
    {ts : Timestamp}
    (hbits : len.val = 8 → ∀ j, (descriptor k).msb + 1 - (descriptor k).width ≤ j → j ≤ (descriptor k).msb →
      p.getLsbD j = q.getLsbD j) :
    parseSignal c k w ⟨id, len, p, ts⟩ = parseSignal c k w ⟨id, len, q, ts⟩ := by
  by_cases hlen : len.val = 8
  · simp only [parseSignal, field_congr (fieldValid_descriptor c.extractRange k) (hbits hlen)]
  · simp only [parseSignal, hlen, ne_eq, not_false_eq_true, or_true, if_true]

/-- Settles O21: a frame acts through its parser alone. -/
theorem framesReadOnlyTheirField : Obligations.FramesReadOnlyTheirField := by
  intro s len p q ts
  refine ⟨fun hbits => ?lamp, fun hbits => ?lock, fun hbits => ?park, fun hbits => ?batt⟩
  case lamp => simp only [exec, execFrameLamp, parseLamp, parseSignal_congr (k := .lamp) hbits]
  case lock => simp only [exec, execFrameLock, parseLock, parseSignal_congr (k := .lock) hbits]
  case park => simp only [exec, execFramePark, parsePark, parseSignal_congr (k := .park) hbits]
  case batt => simp only [exec, execFrameBatt, parseBatt, parseSignal_congr (k := .batt) hbits]

/-! ## The last two updates -/

theorem isReset_eq_true_iff {i : Instr} : isReset i = true ↔ i = .reset := by cases i <;> simp [isReset]

/-- One more accepted update on top of a history (42_aggregator.md R140). -/
theorem SignalRegs.ofHistory_cons {w : Nat} (u : BitVec w × Timestamp) (h : List (BitVec w × Timestamp)) :
    SignalRegs.ofHistory (u :: h) = (SignalRegs.ofHistory h).accept u.1 u.2 := by
  cases h <;> rfl

/-- What every instruction but `RESET` does to the signal registers that `regs` picks: it stores its accepted update, given
by `upd`, if it is one. -/
def StoresUpdates {w : Nat} (regs : VehicleState → SignalRegs w) (upd : Instr → Option (BitVec w × Timestamp)) : Prop :=
  ∀ (i : Instr) (s t : State), exec i s = .next t → isReset i = false →
    regs t.vehicle = (upd i).elim (regs s.vehicle) fun u => (regs s.vehicle).accept u.1 u.2

/-- The four signals store their own updates (42_aggregator.md R140 to R144). -/
theorem lamp_storesUpdates : StoresUpdates (·.lamp) lampUpdate := fun i _ _ h hi => by
  rw [exec_vehicle_eq_afterUpdate h hi, VehicleState.afterUpdate]
theorem lock_storesUpdates : StoresUpdates (·.lock) lockUpdate := fun i _ _ h hi => by
  rw [exec_vehicle_eq_afterUpdate h hi, VehicleState.afterUpdate]
theorem park_storesUpdates : StoresUpdates (·.park) parkUpdate := fun i _ _ h hi => by
  rw [exec_vehicle_eq_afterUpdate h hi, VehicleState.afterUpdate]
theorem batt_storesUpdates : StoresUpdates (·.batt) battUpdate := fun i _ _ h hi => by
  rw [exec_vehicle_eq_afterUpdate h hi, VehicleState.afterUpdate]

section History
variable {w : Nat} {regs : VehicleState → SignalRegs w} {upd : Instr → Option (BitVec w × Timestamp)}

/-- Without an update of the signal its registers stay. -/
theorem StoresUpdates.eq_of_none (hupd : StoresUpdates regs upd) {i : Instr} {s t : State} (h : exec i s = .next t)
    (hi : isReset i = false) (hnone : upd i = none) : regs t.vehicle = regs s.vehicle := by
  rw [hupd i s t h hi, hnone]
  rfl

/-- Over any run the registers follow the history of the updates since the last reset (10_state.md R31). -/
theorem StoresUpdates.eq_ofHistory (hupd : StoresUpdates regs upd) (hreset : regs VehicleState.reset = SignalRegs.reset w)
    (is : List Instr) {s t : State} (acc : List (BitVec w × Timestamp)) (hs : regs s.vehicle = SignalRegs.ofHistory acc)
    (h : execAll is s = .next t) : regs t.vehicle = SignalRegs.ofHistory (history upd acc is) := by
  induction is generalizing s acc with
  | nil =>
    cases h
    exact hs
  | cons i is ih =>
    obtain ⟨u, hu, hrest⟩ := execAll_cons_eq_next h
    refine ih _ ?_ hrest
    cases hi : isReset i with
    | true =>
      obtain rfl := isReset_eq_true_iff.1 hi
      cases hu
      exact hreset
    | false =>
      rw [hupd i s u hu hi, hs]
      cases upd i with
      | none => rfl
      | some v => exact (SignalRegs.ofHistory_cons v acc).symm

end History

/-- Settles O25: all four signals store their updates, so each follows its history from the empty one at power-up. -/
theorem signalRegistersHoldTheLastTwoUpdates : Obligations.SignalRegistersHoldTheLastTwoUpdates := by
  refine ⟨fun c is t h => ⟨?_, ?_, ?_, ?_⟩, fun i s t h hi => ⟨?_, ?_, ?_, ?_⟩⟩
  · exact lamp_storesUpdates.eq_ofHistory rfl is [] rfl h
  · exact lock_storesUpdates.eq_ofHistory rfl is [] rfl h
  · exact park_storesUpdates.eq_ofHistory rfl is [] rfl h
  · exact batt_storesUpdates.eq_ofHistory rfl is [] rfl h
  · exact lamp_storesUpdates.eq_of_none h hi
  · exact lock_storesUpdates.eq_of_none h hi
  · exact park_storesUpdates.eq_of_none h hi
  · exact batt_storesUpdates.eq_of_none h hi

end Sys2Proof.Machine

/-! PROOFS. The family 'other', readiness: `READY`, the freshness machine and the degraded condition DC3
(42_aggregator.md section 3, 60_exceptions.md section 1). -/

namespace Sys2Proof.Machine

/-! ## When `READY` finds the block ready -/

/-- What readiness reads of the Vehicle State: the seen flag and the last time of each signal (42_aggregator.md R149). -/
def VehicleState.seenAndLast (v : VehicleState) : List (Bool × Timestamp) :=
  [(v.lamp.seen, v.lamp.last), (v.lock.seen, v.lock.last), (v.park.seen, v.park.last), (v.batt.seen, v.batt.last)]

/-- A signal seen or not and last updated then is fresh at `now` (42_aggregator.md R148). -/
def FreshAt (c : Config) (now : Timestamp) (r : Bool × Timestamp) : Prop :=
  (c.initFreshness = .neverFresh → r.1 = true) ∧ elapsed c now r.2 < c.readinessTimeout

/-- The block is ready exactly when one of the four signals is fresh (42_aggregator.md R149). -/
theorem anyFresh_iff {c : Config} {v : VehicleState} {now : Timestamp} :
    anyFresh c v now = true ↔ ∃ r ∈ v.seenAndLast, FreshAt c now r := by
  simp [anyFresh, fresh_iff, VehicleState.seenAndLast, FreshAt, or_assoc]

theorem anyFresh_eq_false_iff {c : Config} {v : VehicleState} {now : Timestamp} :
    anyFresh c v now = false ↔ ∀ r ∈ v.seenAndLast, ¬ FreshAt c now r := by
  rw [← Bool.not_eq_true, anyFresh_iff]
  simp only [not_exists, not_and]

/-- The freshness test with the age as an integer (00_scope.md R11). -/
theorem elapsed_lt_iff {c : Config} (hW : c.tsWidth ≤ 64) (now last : Timestamp) (d : Nat) :
    elapsed c now last < d ↔ ((now.toNat : Int) - last.toNat) % 2 ^ c.tsWidth < d := by
  rw [← elapsed_eq_int hW, Int.ofNat_lt]

theorem readinessTimeout_pos {c : Config} (h : admissible c = true) : 0 < c.readinessTimeout := by
  obtain ⟨-, ⟨hpos, -⟩, -⟩ := (admissible_iff c).1 h
  exact hpos

/-- Settles O26: `READY` stores the OR of the four tests, and nothing else moves. -/
theorem readyIsTheOrOfFreshSignals : Obligations.ReadyIsTheOrOfFreshSignals := by
  intro s now ready h hready
  have heq : ready = anyFresh s.cfg s.vehicle now := by
    refine Bool.eq_iff_iff.2 (Iff.trans hready ?_)
    rw [anyFresh_iff]
    simp [VehicleState.seenAndLast, FreshAt, elapsed_lt_iff (admissible_width h).2]
  rw [exec_ready, heq]
  rfl

/-- Settles O27: less than a wrap period apart, the age is the true difference of the clocks. -/
theorem readinessFollowsTheRealClock : Obligations.ReadinessFollowsTheRealClock := by
  intro s now x y h hle hwrap hnow
  have hage : ∀ last, carries s.cfg x last → elapsed s.cfg now last = y - x := fun last hlast =>
    elapsed_of_clocks (admissible_width h).2 hnow hlast hle hwrap
  refine ⟨fun ⟨r, hr, hseen, hlast⟩ hfresh => ⟨_, exec_ready now s, anyFresh_iff.2 ⟨r, hr, fun _ => hseen, ?_⟩⟩,
    fun hlast hstale => ⟨_, exec_ready now s, anyFresh_eq_false_iff.2 fun r hr hfresh => ?_⟩⟩
  · rwa [hage _ hlast]
  · have hold := hfresh.2
    have hmem : r.2 ∈ s.vehicle.seenAndLast.map (·.2) := List.mem_map_of_mem hr
    rw [hage _ (hlast _ hmem)] at hold
    omega

/-- A signal updated at `now` makes the block ready at `now`. -/
theorem anyFresh_of_seen_now {c : Config} (h : admissible c = true) {v : VehicleState} {now : Timestamp}
    (hmem : (true, now) ∈ v.seenAndLast) : anyFresh c v now = true :=
  anyFresh_iff.2 ⟨_, hmem, fun _ => rfl, by simpa using readinessTimeout_pos h⟩

/-- `READY` after an instruction that leaves a signal updated at the same time. -/
theorem ready_after_update {i : Instr} {s u : State} {now : Timestamp} (h : admissible s.cfg = true)
    (hi : exec i s = .next u) (hmem : (true, now) ∈ u.vehicle.seenAndLast) :
    ∃ t, execAll [i, .ready now] s = .next t ∧ t.vehicle.systemReady = true :=
  ⟨_, execAll_cons_of_next hi _, anyFresh_of_seen_now (exec_cfg_eq hi ▸ h) hmem⟩

/-- Settles O28: each accepted frame leaves its signal seen with the frame's time. -/
theorem updateThenReadyIsReady : Obligations.UpdateThenReadyIsReady := by
  intro s data now h i hi
  simp only [List.mem_cons, List.not_mem_nil, or_false] at hi
  rcases hi with rfl | rfl | rfl | rfl
  · exact ready_after_update h (exec_frameLamp 8 data now s) (by simp [VehicleState.seenAndLast])
  · exact ready_after_update h (exec_frameLock 8 data now s) (by simp [VehicleState.seenAndLast])
  · exact ready_after_update h (exec_framePark 8 data now s) (by simp [VehicleState.seenAndLast])
  · exact ready_after_update h (exec_frameBatt 8 data now s) (by simp [VehicleState.seenAndLast])

/-! ## The freshness machine -/

theorem freshnessOf_accept {w : Nat} {c : Config} (h : admissible c = true) (r : SignalRegs w) (v : BitVec w)
    (ts : Timestamp) : freshnessOf c (r.accept v ts) ts = .fresh := by
  have hpos := readinessTimeout_pos h
  cases hc : c.initFreshness <;> simp [freshnessOf, hc, withinWindow, hpos]

theorem freshnessOf_reset {c : Config} (w : Nat) (hc : c.initFreshness = .neverFresh) (now : Timestamp) :
    freshnessOf c (SignalRegs.reset w) now = .never := by
  simp [freshnessOf, hc]

section Freshness
variable {w : Nat} {regs : VehicleState → SignalRegs w} {upd : Instr → Option (BitVec w × Timestamp)}

/-- An accepted update moves its signal to fresh at the frame's time (42_aggregator.md R150). -/
theorem StoresUpdates.fresh_of_update (hupd : StoresUpdates regs upd) {i : Instr} {s t : State}
    (hadm : admissible s.cfg = true) (h : exec i s = .next t) (hi : isReset i = false) {v : BitVec w} {ts : Timestamp}
    (hv : upd i = some (v, ts)) : freshnessOf t.cfg (regs t.vehicle) ts = .fresh := by
  rw [hupd i s t h hi, hv, exec_cfg_eq h]
  exact freshnessOf_accept hadm _ v ts

/-- Without an update a signal keeps its freshness at every time (42_aggregator.md R150). -/
theorem StoresUpdates.freshness_eq_of_none (hupd : StoresUpdates regs upd) {i : Instr} {s t : State}
    (h : exec i s = .next t) (hi : isReset i = false) (hnone : upd i = none) (now : Timestamp) :
    freshnessOf t.cfg (regs t.vehicle) now = freshnessOf s.cfg (regs s.vehicle) now := by
  rw [hupd.eq_of_none h hi hnone, exec_cfg_eq h]

end Freshness

/-- Settles O29: `RESET` is no update and empties the registers; every other instruction stores its own update only. -/
theorem freshnessMovesOnlyByUpdateAndReset : Obligations.FreshnessMovesOnlyByUpdateAndReset := by
  intro i s t now hadm h
  cases hi : isReset i with
  | true =>
    obtain rfl := isReset_eq_true_iff.1 hi
    cases h
    exact ⟨fun _ hc => ⟨freshnessOf_reset 2 hc now, freshnessOf_reset 2 hc now, freshnessOf_reset 4 hc now,
      freshnessOf_reset 7 hc now⟩, nofun, nofun, nofun, nofun, nofun⟩
  | false =>
    exact ⟨nofun,
      fun _ _ => lamp_storesUpdates.fresh_of_update hadm h hi, fun _ _ => lock_storesUpdates.fresh_of_update hadm h hi,
      fun _ _ => park_storesUpdates.fresh_of_update hadm h hi, fun _ _ => batt_storesUpdates.fresh_of_update hadm h hi,
      fun _ => ⟨fun hnone => lamp_storesUpdates.freshness_eq_of_none h hi hnone now,
        fun hnone => lock_storesUpdates.freshness_eq_of_none h hi hnone now,
        fun hnone => park_storesUpdates.freshness_eq_of_none h hi hnone now,
        fun hnone => batt_storesUpdates.freshness_eq_of_none h hi hnone now⟩⟩

/-! ## `system_ready` -/

/-- Settles O30: `READY` and `RESET` are the two meanings that write `system_ready`, and the rule reads it. -/
theorem readinessIsLatched : Obligations.ReadinessIsLatched := by
  refine ⟨fun i s t h hne => ?writers, fun s now btnN => ⟨_, exec_act now btnN s, rfl⟩⟩
  case writers =>
    cases i with
    | ready now => exact .inl ⟨now, rfl⟩
    | reset => exact .inr rfl
    | frameLamp len _ _ | frameLock len _ _ | framePark len _ _ | frameBatt len _ _ =>
      simp only [exec_frameLamp, exec_frameLock, exec_framePark, exec_frameBatt, Host.Outcome.next.injEq] at h
      subst h
      by_cases hlen : len.val = 8 <;> simp [hlen] at hne
    | frameOther | act | extract | set | read =>
      cases h
      exact absurd rfl hne

/-- With the rule false no `ACT` leaves the output active (43_actuation.md R175). -/
theorem releaseAfter_of_rule_false {c : Config} {v : VehicleState} (h : activationRule v = false) (a : ActuatorState)
    (now : Timestamp) : releaseAfter c v a now = false := by
  rw [← Bool.not_eq_true, releaseAfter_eq_true_iff]
  rintro ⟨hrel, -⟩
  rw [activationRule_of_releaseAfterRule hrel] at h
  cases h

/-- Settles O31: no signal passes the freshness test, so `READY` clears `system_ready`, the rule is false and `ACT`
leaves the output off. -/
theorem staleDataTurnsTheReleaseOff : Obligations.StaleDataTurnsTheReleaseOff := by
  intro s now later btnN hstale
  have hready : anyFresh s.cfg s.vehicle now = false := by
    refine anyFresh_eq_false_iff.2 fun r hr ⟨hseen, hage⟩ => ?_
    rcases hstale r hr with ⟨hc, hunseen⟩ | hold
    · simp [hseen hc] at hunseen
    · omega
  refine ⟨_, execAll_cons_of_next (exec_ready now s) _, hready, releaseAfter_of_rule_false ?_ _ later⟩
  simp [activationRule, hready]

end Sys2Proof.Machine

/-! PROOFS. The family 'other', one `ACT`: the outputs, the edge, the window and the write events (43_actuation.md
section 2). -/

namespace Sys2Proof.Machine

/-! ## The write events of a step -/

/-- The write events as the conditionals the statements use (43_actuation.md R178). -/
theorem writeEvents_eq (before after : ActuatorState) (now : Timestamp) :
    writeEvents before after now =
      (if after.bedlight = before.bedlight then [] else [.writeBedlight after.bedlight now])
        ++ (if after.release = before.release then [] else [.writeReleaseOutput after.release now]) := by
  rw [writeEvents, eventIf_bne, eventIf_bne]

/-- A step writes the bedlight exactly when it changes it (43_actuation.md R178). -/
theorem writeBedlight_mem_writeEvents_iff {before after : ActuatorState} {now u : Timestamp} {b : Bool} :
    OutputEvent.writeBedlight b u ∈ writeEvents before after now
      ↔ after.bedlight ≠ before.bedlight ∧ b = after.bedlight ∧ u = now := by
  simp [writeEvents]

/-- The release output's event comes last (92_eei_decisions.md D10). -/
theorem getLast?_append_writeEvents {before after : ActuatorState} (h : after.release ≠ before.release)
    (es : List OutputEvent) (now : Timestamp) :
    (es ++ writeEvents before after now).getLast? = some (.writeReleaseOutput after.release now) := by
  rw [writeEvents_eq, if_neg h, ← List.append_assoc, List.getLast?_concat]

/-- The bedlight's event comes first (92_eei_decisions.md D10). -/
theorem head?_writeEvents {before after : ActuatorState} (h : after.bedlight ≠ before.bedlight) (now : Timestamp) :
    (writeEvents before after now).head? = some (.writeBedlight after.bedlight now) := by
  rw [writeEvents_eq, if_neg h]
  rfl

/-- What an `ACT` leaves, by parts (43_actuation.md R170). -/
theorem act_parts {s t : State} {now : Timestamp} {btnN : Bool} (h : exec (.act now btnN) s = .next t) :
    t.actuator = actuatorAfter s.cfg s.vehicle s.actuator now btnN
      ∧ t.events = s.events ++ writeEvents s.actuator t.actuator now ∧ t.vehicle = s.vehicle := by
  cases h
  exact ⟨rfl, rfl, rfl⟩

/-- The events an `ACT` adds to the history. -/
theorem newEvents_of_act {s t : State} {now : Timestamp} {btnN : Bool} (h : exec (.act now btnN) s = .next t) :
    t.events.drop s.events.length = writeEvents s.actuator t.actuator now := by
  obtain ⟨-, hevents, -⟩ := act_parts h
  rw [hevents, List.drop_left]

/-- Settles O39: `ACT` appends its write events; of the others only `RESET` touches the outputs, and it emits nothing. -/
theorem eventsAreExactlyTheOutputChanges : Obligations.EventsAreExactlyTheOutputChanges := by
  intro i s t h
  cases i with
  | act now btnN =>
    refine ⟨nofun, fun now' hnow => ?_⟩
    cases hnow
    obtain ⟨-, hevents, -⟩ := act_parts h
    rw [List.append_assoc, ← writeEvents_eq]
    exact hevents
  | reset =>
    cases h
    exact ⟨fun _ => rfl, nofun⟩
  | _ =>
    refine ⟨fun hact => ?_, nofun⟩
    rw [exec_eq_withVehicleAndResult h hact rfl]

/-! ## The bedlight and the button -/

/-- Settles O32: the actuator after the step by its fields, and the bedlight's event exactly on a change. -/
theorem actFollowsTheLampAndSamplesTheButton : Obligations.ActFollowsTheLampAndSamplesTheButton := by
  refine fun s now btnN => ⟨_, exec_act now btnN s, rfl, rfl, rfl, fun hsame b u hmem => ?quiet, fun hchange => ?first,
    rfl, rfl, rfl, rfl⟩
  case quiet =>
    rw [newEvents_of_act (exec_act now btnN s), writeBedlight_mem_writeEvents_iff] at hmem
    obtain ⟨hne, -, -⟩ := hmem
    exact hne hsame.symm
  case first =>
    rw [newEvents_of_act (exec_act now btnN s)]
    exact head?_writeEvents (Ne.symm hchange) now

/-- Settles O46: `BTN_N` stands in one field of the actuator after the step. -/
theorem buttonNeverAffectsAnOutput : Obligations.ButtonNeverAffectsAnOutput :=
  fun s now b b' => ⟨_, _, exec_act now b s, exec_act now b' s, rfl⟩

/-! ## Activation -/

/-- An edge at an inactive output turns it on with a new start and the event last, under both policies (43_actuation.md
R174, R179). -/
theorem act_of_risingEdge {s : State} (now : Timestamp) (btnN : Bool) (hd : 1 ≤ s.cfg.fixedDuration)
    (hoff : s.actuator.release = false) (hedge : risingEdge s.cfg s.actuator (activationRule s.vehicle) = true) :
    ∃ t, exec (.act now btnN) s = .next t ∧ t.actuator.release = true ∧ t.actuator.startedAt = now
      ∧ t.events.getLast? = some (.writeReleaseOutput true now) := by
  have hon : releaseAfter s.cfg s.vehicle s.actuator now = true :=
    (releaseAfter_of_inactive s.cfg s.vehicle s.actuator now hd hoff).trans hedge
  have hstart : startedAtAfter s.cfg s.vehicle s.actuator now = now := by
    simp [startedAtAfter, activates, hedge, hoff]
  refine ⟨_, exec_act now btnN s, hon, hstart, ?last⟩
  case last =>
    obtain ⟨-, hevents, -⟩ := act_parts (exec_act now btnN s)
    rw [hevents, getLast?_append_writeEvents]
    · exact congrArg (fun b => some (OutputEvent.writeReleaseOutput b now)) hon
    · simp [hon, hoff]

/-- Settles O33: under `EDGE` the rule true and false before is an edge. -/
theorem actActivatesOnARisingEdge : Obligations.ActActivatesOnARisingEdge := by
  intro s now btnN hd hpolicy hready hparked hunlocked hprev hoff
  have hrule := activationRule_eq_true_iff.2 ⟨hready, hparked, hunlocked⟩
  exact act_of_risingEdge now btnN hd hoff (by simp [risingEdge, hpolicy, hrule, hprev])

/-- Settles O37: under `LEVEL` the rule true with the output off is an edge. -/
theorem levelPolicyRearmsWithoutAnEdge : Obligations.LevelPolicyRearmsWithoutAnEdge := by
  intro s now btnN hd hpolicy hready hparked hunlocked hoff
  have hrule := activationRule_eq_true_iff.2 ⟨hready, hparked, hunlocked⟩
  exact act_of_risingEdge now btnN hd hoff (by simp [risingEdge, hpolicy, hrule, hoff])

/-- The activation rule is false as soon as one of its flags is (43_actuation.md R173). -/
theorem activationRule_eq_false_iff {v : VehicleState} :
    activationRule v = false ↔ v.systemReady = false ∨ v.isParked = false ∨ v.isUnlocked = false := by
  simp only [activationRule, Bool.and_eq_false_iff, or_assoc]

/-- Without an edge an inactive output keeps its start and stays off. -/
theorem after_of_no_edge {c : Config} {v : VehicleState} {a : ActuatorState} (hoff : a.release = false)
    (hedge : risingEdge c a (activationRule v) = false) (now : Timestamp) :
    releaseAfter c v a now = false ∧ startedAtAfter c v a now = a.startedAt := by
  simp [releaseAfter, releaseAfterRule, startedAtAfter, activates, hoff, hedge]

/-- A false rule is no edge, and neither is, under `EDGE`, a rule that was true before (43_actuation.md R174). -/
theorem risingEdge_eq_false {c : Config} {a : ActuatorState} {rule : Bool}
    (h : rule = false ∨ (c.rearmPolicy = .edge ∧ a.rulePrev = true)) : risingEdge c a rule = false := by
  rcases h with rfl | ⟨hpolicy, hprev⟩
  · cases hp : c.rearmPolicy <;> simp [risingEdge, hp]
  · simp [risingEdge, hpolicy, hprev]

/-- Settles O38: there is no edge, so the output does not change and no event says it did. -/
theorem noEdgeNoActivation : Obligations.NoEdgeNoActivation := by
  intro s now btnN hoff hno
  have hedge := risingEdge_eq_false (hno.imp_left activationRule_eq_false_iff.2)
  obtain ⟨hstays, hstart⟩ := after_of_no_edge hoff hedge now
  refine ⟨_, exec_act now btnN s, hstays, hstart, fun b u hmem => ?_⟩
  rw [newEvents_of_act (exec_act now btnN s), writeReleaseOutput_mem_writeEvents_iff] at hmem
  obtain ⟨hne, -, -⟩ := hmem
  exact hne (hstays.trans hoff.symm)

/-! ## Deactivation -/

/-- Settles O34: with the rule false the active output goes off and keeps its start, and the change is the one release
event. -/
theorem actTurnsOffWhenTheRuleIsFalse : Obligations.ActTurnsOffWhenTheRuleIsFalse := by
  intro s now btnN hflags hon
  have hoff := releaseAfter_of_rule_false (c := s.cfg) (activationRule_eq_false_iff.2 hflags) s.actuator now
  refine ⟨_, exec_act now btnN s, hoff, startedAtAfter_of_active s.cfg s.vehicle s.actuator now hon, ?events⟩
  case events =>
    rw [newEvents_of_act (exec_act now btnN s), writeEvents_eq]
    simp only [actuatorAfter_release, hoff, hon, actuatorAfter_bedlight]
    by_cases hbed : s.vehicle.bedlightOn = s.actuator.bedlight <;> simp [hbed]

/-- Settles O35: the window is over, so the active output goes off, and its event is the last. -/
theorem actTurnsOffWhenTheWindowIsOver : Obligations.ActTurnsOffWhenTheWindowIsOver := by
  intro s now btnN hW hon hage
  have hover : windowOver s.cfg now s.actuator.startedAt = true := by
    rw [← elapsed_eq_int hW] at hage
    exact decide_eq_true (Int.ofNat_le.1 hage)
  have hoff : releaseAfter s.cfg s.vehicle s.actuator now = false := by
    rw [releaseAfter_of_active s.cfg s.vehicle s.actuator now hon, hover, Bool.not_true, Bool.and_false]
  refine ⟨_, exec_act now btnN s, hoff, ?last⟩
  case last =>
    obtain ⟨-, hevents, -⟩ := act_parts (exec_act now btnN s)
    rw [hevents, getLast?_append_writeEvents]
    · exact congrArg (fun b => some (OutputEvent.writeReleaseOutput b now)) hoff
    · simp [hon, hoff]

end Sys2Proof.Machine

/-! PROOFS. The family 'other', runs: the replayed events, re-arming, bounded activation and the activation law
(43_actuation.md section 3, 60_exceptions.md section 4). -/

namespace Sys2Proof.Machine

/-- A property every instruction of a list keeps holds after the list (20_memory.md R60). -/
theorem execAll_keeps {p : State → Prop} {is : List Instr} (hkeeps : ∀ i ∈ is, ∀ s t, exec i s = .next t → p s → p t)
    {s t : State} (hs : p s) (h : execAll is s = .next t) : p t := by
  induction is generalizing s with
  | nil =>
    cases h
    exact hs
  | cons i is ih =>
    obtain ⟨u, hu, hrest⟩ := execAll_cons_eq_next h
    rw [List.forall_mem_cons] at hkeeps
    exact ih hkeeps.2 (hkeeps.1 s u hu hs) hrest

/-- An `ACT` is an instruction with a `NOW`. -/
theorem eq_act_of_actNow {i : Instr} {now : Timestamp} (h : actNow i = some now) : ∃ btnN, i = .act now btnN := by
  cases i with
  | act now' btnN =>
    cases h
    exact ⟨btnN, rfl⟩
  | _ => cases h

/-! ## Following the write events -/

theorem portsAfterEvents_append (ports : Bool × Bool) (es fs : List OutputEvent) :
    portsAfterEvents ports (es ++ fs) = portsAfterEvents (portsAfterEvents ports es) fs := by
  induction es generalizing ports with
  | nil => rfl
  | cons e es ih => cases e <;> exact ih _

/-- The events of a step lead from the ports before to the ports after (43_actuation.md R178). -/
theorem portsAfterEvents_writeEvents (before after : ActuatorState) (now : Timestamp) :
    portsAfterEvents (before.bedlight, before.release) (writeEvents before after now) =
      (after.bedlight, after.release) := by
  rw [writeEvents_eq]
  by_cases hbed : after.bedlight = before.bedlight <;> by_cases hrel : after.release = before.release <;>
    simp [hbed, hrel, portsAfterEvents]

/-- The history replayed from both outputs off gives both ports. -/
def ReplaysToPorts (s : State) : Prop := portsAfterEvents (false, false) s.events = (s.bedlightPort, s.releasePort)

theorem exec_keeps_replaysToPorts {i : Instr} (hi : isReset i = false) {s t : State} (h : exec i s = .next t)
    (hs : ReplaysToPorts s) : ReplaysToPorts t := by
  cases hact : actNow i with
  | none =>
    rw [exec_eq_withVehicleAndResult h hact hi]
    exact hs
  | some now =>
    obtain ⟨btnN, rfl⟩ := eq_act_of_actNow hact
    obtain ⟨-, hevents, -⟩ := act_parts h
    rw [ReplaysToPorts, hevents, portsAfterEvents_append, hs]
    exact portsAfterEvents_writeEvents s.actuator t.actuator now

/-- Settles O40: the replay agrees at power-up, and every instruction but `RESET` keeps the agreement. -/
theorem eventHistoryReplaysToThePorts : Obligations.EventHistoryReplaysToThePorts :=
  fun c _ _ hnoreset h => execAll_keeps (p := ReplaysToPorts) (fun i hi _ _ => exec_keeps_replaysToPorts (hnoreset i hi))
    (s := State.powerUp c) rfl h

/-! ## The log of `ACT`s -/

/-- What one instruction adds to the log of `ACT`s (43_actuation.md R182). -/
def logAfter (log : List (Bool × Timestamp)) (i : Instr) (s : State) : List (Bool × Timestamp) :=
  if isReset i then [] else ((actNow i).map fun now => (activationRule s.vehicle, now)).toList ++ log

theorem actLog_cons {i : Instr} {s u : State} (h : exec i s = .next u) (log : List (Bool × Timestamp))
    (is : List Instr) : actLog log (i :: is) s = actLog (logAfter log i s) is u := by
  simp only [actLog, h, logAfter]

theorem logAfter_act (log : List (Bool × Timestamp)) (now : Timestamp) (btnN : Bool) (s : State) :
    logAfter log (.act now btnN) s = (activationRule s.vehicle, now) :: log := rfl

theorem logAfter_of_not_act {i : Instr} (hact : actNow i = none) (hi : isReset i = false)
    (log : List (Bool × Timestamp)) (s : State) : logAfter log i s = log := by
  simp [logAfter, hact, hi]

/-- Without `RESET` the log only grows. -/
theorem mem_actLog_of_mem {is : List Instr} (hnoreset : ∀ i ∈ is, isReset i = false) {log : List (Bool × Timestamp)}
    {s : State} {e : Bool × Timestamp} (he : e ∈ log) : e ∈ actLog log is s := by
  induction is generalizing log s with
  | nil => exact he
  | cons i is ih =>
    rw [List.forall_mem_cons] at hnoreset
    obtain ⟨u, hu, -⟩ := exec_eq_next_and_cfg_eq i s
    rw [actLog_cons hu]
    refine ih hnoreset.2 ?_
    simp [logAfter, hnoreset.1, he]

/-! ## Re-arming under `EDGE` -/

/-- From `s` to `t` the output stayed off with the rule true at the last `ACT`, and no release event was emitted. -/
structure StaysOff (s t : State) : Prop where
  cfg_eq : t.cfg = s.cfg
  off : t.actuator.release = false
  rule_was_true : t.actuator.rulePrev = true
  quiet : ∃ es, t.events = s.events ++ es ∧ ∀ b u, OutputEvent.writeReleaseOutput b u ∉ es

theorem StaysOff.trans {s u t : State} (h₁ : StaysOff s u) (h₂ : StaysOff u t) : StaysOff s t := by
  obtain ⟨es, hes, hquiet₁⟩ := h₁.quiet
  obtain ⟨fs, hfs, hquiet₂⟩ := h₂.quiet
  refine ⟨h₂.cfg_eq.trans h₁.cfg_eq, h₂.off, h₂.rule_was_true, es ++ fs, by rw [hfs, hes, List.append_assoc],
    fun b u hmem => ?_⟩
  rcases List.mem_append.1 hmem with hmem | hmem
  · exact hquiet₁ b u hmem
  · exact hquiet₂ b u hmem

/-- One instruction under `EDGE` at whose `ACT` the rule is still true (43_actuation.md R183). -/
theorem exec_staysOff {i : Instr} {s t : State} (hpolicy : s.cfg.rearmPolicy = .edge) (hoff : s.actuator.release = false)
    (hprev : s.actuator.rulePrev = true) (hi : isReset i = false)
    (hrule : ∀ now, actNow i = some now → activationRule s.vehicle = true) (h : exec i s = .next t) : StaysOff s t := by
  cases hact : actNow i with
  | none =>
    rw [exec_eq_withVehicleAndResult h hact hi]
    exact ⟨rfl, hoff, hprev, [], (List.append_nil _).symm, fun _ _ => List.not_mem_nil⟩
  | some now =>
    obtain ⟨btnN, rfl⟩ := eq_act_of_actNow hact
    obtain ⟨hactuator, hevents, -⟩ := act_parts h
    have hstays : t.actuator.release = false := by
      rw [hactuator]
      exact (after_of_no_edge hoff (risingEdge_eq_false (.inr ⟨hpolicy, hprev⟩)) now).1
    refine ⟨exec_cfg_eq h, hstays, ?_, _, hevents, fun b u hmem => ?_⟩
    · rw [hactuator]
      exact hrule now hact
    · obtain ⟨hne, -, -⟩ := writeReleaseOutput_mem_writeEvents_iff.1 hmem
      exact hne (hstays.trans hoff.symm)

/-- A run under `EDGE` at whose every `ACT` the rule is true keeps an output off that is off with the rule true. -/
theorem execAll_staysOff {is : List Instr} {log : List (Bool × Timestamp)} {s t : State}
    (hpolicy : s.cfg.rearmPolicy = .edge) (hoff : s.actuator.release = false) (hprev : s.actuator.rulePrev = true)
    (hnoreset : ∀ i ∈ is, isReset i = false) (hlog : ∀ e ∈ actLog log is s, e.1 = true)
    (h : execAll is s = .next t) : StaysOff s t := by
  induction is generalizing log s with
  | nil =>
    cases h
    exact ⟨rfl, hoff, hprev, [], (List.append_nil _).symm, fun _ _ => List.not_mem_nil⟩
  | cons i is ih =>
    rw [List.forall_mem_cons] at hnoreset
    obtain ⟨u, hu, hrest⟩ := execAll_cons_eq_next h
    rw [actLog_cons hu] at hlog
    have hrule : ∀ now, actNow i = some now → activationRule s.vehicle = true := fun now hact =>
      hlog (activationRule s.vehicle, now)
        (mem_actLog_of_mem hnoreset.2 (by simp [logAfter, hnoreset.1, hact]))
    have hfirst := exec_staysOff hpolicy hoff hprev hnoreset.1 hrule hu
    exact hfirst.trans (ih (hfirst.cfg_eq ▸ hpolicy) hfirst.off hfirst.rule_was_true hnoreset.2 hlog hrest)

/-- Settles O45: the run keeps the output off, and what it adds to the history holds no release event. -/
theorem rearmingNeedsTheRuleToGoFalse : Obligations.RearmingNeedsTheRuleToGoFalse := by
  intro s t is hpolicy hoff hprev hnoreset hlog h
  have hstays := execAll_staysOff hpolicy hoff hprev hnoreset hlog h
  obtain ⟨es, hes, hquiet⟩ := hstays.quiet
  refine ⟨hstays.off, ?_⟩
  rw [hes, List.drop_left]
  exact hquiet

/-! ## Bounded activation -/

/-- An instruction at an active output turns it off, or keeps it on with its start, and then an `ACT` came inside the
window (43_actuation.md R175 to R177). -/
theorem exec_of_active {i : Instr} {s t : State} (h : exec i s = .next t) (hon : s.actuator.release = true) :
    t.actuator.release = false
    ∨ (t.actuator.release = true ∧ t.actuator.startedAt = s.actuator.startedAt
        ∧ ∀ now, actNow i = some now → elapsed s.cfg now s.actuator.startedAt < s.cfg.fixedDuration) := by
  cases hi : isReset i with
  | true =>
    obtain rfl := isReset_eq_true_iff.1 hi
    cases h
    exact .inl rfl
  | false =>
    cases hact : actNow i with
    | none =>
      rw [exec_eq_withVehicleAndResult h hact hi]
      exact .inr ⟨hon, rfl, nofun⟩
    | some now =>
      obtain ⟨btnN, rfl⟩ := eq_act_of_actNow hact
      obtain ⟨hactuator, -, -⟩ := act_parts h
      have hstart := startedAtAfter_of_active s.cfg s.vehicle s.actuator now hon
      rw [hactuator]
      cases hrel : releaseAfter s.cfg s.vehicle s.actuator now with
      | false => exact .inl hrel
      | true =>
        obtain ⟨-, hopen⟩ := releaseAfter_eq_true_iff.1 hrel
        rw [hstart] at hopen
        refine .inr ⟨hrel, hstart, fun now' hnow => ?_⟩
        cases hnow
        exact hopen

/-- Some nonempty beginning of the list leaves the output off. -/
def TurnsOffWithin (is : List Instr) (s : State) : Prop :=
  ∃ p q t, p ++ q = is ∧ p ≠ [] ∧ execAll p s = .next t ∧ t.releasePort = false

theorem turnsOffWithin_of_off {i : Instr} {s u : State} (h : exec i s = .next u) (hoff : u.actuator.release = false)
    (is : List Instr) : TurnsOffWithin (i :: is) s :=
  ⟨[i], is, u, rfl, List.cons_ne_nil i [], execAll_cons_of_next h [], hoff⟩

theorem TurnsOffWithin.cons {i : Instr} {is : List Instr} {s u : State} (hlater : TurnsOffWithin is u)
    (h : exec i s = .next u) : TurnsOffWithin (i :: is) s := by
  obtain ⟨p, q, t, rfl, -, hp, hoff⟩ := hlater
  exact ⟨i :: p, q, t, rfl, List.cons_ne_nil i p, (execAll_cons_of_next h p).trans hp, hoff⟩

/-- An `ACT` at or past the end of the window turns an active output off (43_actuation.md R176). -/
theorem turnsOffWithin_act {s : State} {now : Timestamp} (btnN : Bool) (hon : s.actuator.release = true)
    (hpast : s.cfg.fixedDuration ≤ elapsed s.cfg now s.actuator.startedAt) : TurnsOffWithin [.act now btnN] s := by
  rcases exec_of_active (exec_act now btnN s) hon with hoff | ⟨-, -, hopen⟩
  · exact turnsOffWithin_of_off (exec_act now btnN s) hoff []
  · exact absurd (hopen now rfl) (Nat.not_lt.2 hpast)

/-- Settles O42, by induction on the instructions before the `ACT`: as long as the output is on its start is the same. -/
theorem activationIsBounded : Obligations.ActivationIsBounded := by
  intro s is now btnN hon hpast
  change TurnsOffWithin (is ++ [.act now btnN]) s
  induction is generalizing s with
  | nil => exact turnsOffWithin_act btnN hon hpast
  | cons i is ih =>
    obtain ⟨u, hu, hcfg⟩ := exec_eq_next_and_cfg_eq i s
    rcases exec_of_active hu hon with hoff | ⟨hstill, hstart, -⟩
    · exact turnsOffWithin_of_off hu hoff _
    · exact (ih u hstill (by rwa [hcfg, hstart])).cons hu

/-! ## Bounded activation in the host's clock -/

/-- A list headed by an `ACT` that keeps duties H1 and H3: that `ACT` is close to the clock before, and the rest keeps the
duties from it on (60_exceptions.md R216). -/
theorem actsCloseEnough_cons_act {c : Config} {y : Nat} {p : Nat × Instr} {ps : List (Nat × Instr)} {now : Timestamp}
    (hact : actNow p.2 = some now) (h : actsCloseEnough c y (p :: ps)) :
    (y ≤ p.1 ∧ p.1 - y < 2 ^ c.tsWidth - c.fixedDuration) ∧ actsCloseEnough c p.1 ps := by
  simpa [actsCloseEnough, actClocks, hact, List.isChain_cons_cons] using h

theorem actsCloseEnough_cons_other {c : Config} {y : Nat} {p : Nat × Instr} {ps : List (Nat × Instr)}
    (hact : actNow p.2 = none) (h : actsCloseEnough c y (p :: ps)) : actsCloseEnough c y ps := by
  simpa [actsCloseEnough, actClocks, hact] using h

/-- While the last `ACT` was inside the window, the `ACT` after it sees the true age: the window and the spacing together
stay below a wrap period (60_exceptions.md H3). -/
theorem elapsed_of_close_act {c : Config} (h : admissible c = true) {start now : Timestamp} {t0 y x : Nat}
    (hstart : carries c t0 start) (hnow : carries c x now) (hle : t0 ≤ y) (hin : y - t0 < c.fixedDuration)
    (hclose : y ≤ x ∧ x - y < 2 ^ c.tsWidth - c.fixedDuration) : elapsed c now start = x - t0 :=
  elapsed_of_clocks (admissible_width h).2 hnow hstart (by omega) (by omega)

/-- The bound from any moment at which the output is on and the last `ACT`, at `y`, came inside the window. -/
theorem turnsOffWithin_of_clocks {is : List (Nat × Instr)} {s : State} {t0 x y : Nat} {now : Timestamp} {btnN : Bool}
    (hadm : admissible s.cfg = true) (hon : s.actuator.release = true) (hstart : carries s.cfg t0 s.actuator.startedAt)
    (hcarry : actsCarryClock s.cfg (is ++ [(x, .act now btnN)]))
    (hclose : actsCloseEnough s.cfg y (is ++ [(x, .act now btnN)]))
    (hle : t0 ≤ y) (hin : y - t0 < s.cfg.fixedDuration) (hpast : t0 + s.cfg.fixedDuration ≤ x) :
    TurnsOffWithin ((is ++ [(x, Instr.act now btnN)]).map Prod.snd) s := by
  induction is generalizing s y with
  | nil =>
    have hnow : carries s.cfg x now := hcarry (x, .act now btnN) (List.mem_singleton_self _) now rfl
    obtain ⟨hspacing, -⟩ := actsCloseEnough_cons_act rfl hclose
    refine turnsOffWithin_act btnN hon ?_
    rw [elapsed_of_close_act hadm hstart hnow hle hin hspacing]
    omega
  | cons p ps ih =>
    obtain ⟨u, hu, hcfg⟩ := exec_eq_next_and_cfg_eq p.2 s
    obtain ⟨hcarryHead, hcarryTail⟩ := List.forall_mem_cons.1 hcarry
    rcases exec_of_active hu hon with hoff | ⟨hstill, hsame, hwindow⟩
    · exact turnsOffWithin_of_off hu hoff _
    · obtain ⟨y', hle', hin', hclose'⟩ : ∃ y', t0 ≤ y' ∧ y' - t0 < s.cfg.fixedDuration
          ∧ actsCloseEnough s.cfg y' (ps ++ [(x, .act now btnN)]) := by
        cases hact : actNow p.2 with
        | none => exact ⟨y, hle, hin, actsCloseEnough_cons_other hact hclose⟩
        | some n =>
          obtain ⟨hspacing, hclose'⟩ := actsCloseEnough_cons_act hact hclose
          have hopen := hwindow n hact
          rw [elapsed_of_close_act hadm hstart (hcarryHead n hact) hle hin hspacing] at hopen
          exact ⟨p.1, by omega, hopen, hclose'⟩
      rw [← hsame] at hstart
      rw [← hcfg] at hadm hstart hcarryTail hclose' hin' hpast
      exact (ih hadm hstill hstart hcarryTail hclose' hle' hin' hpast).cons hu

/-- Settles O43: at the activation itself no time has passed. -/
theorem activationIsBoundedInRealTime : Obligations.ActivationIsBoundedInRealTime := by
  intro s is t0 x now btnN hadm hon hstart hcarry hclose hpast
  obtain ⟨-, -, ⟨hpos, -⟩, -⟩ := (admissible_iff s.cfg).1 hadm
  exact turnsOffWithin_of_clocks hadm hon hstart hcarry hclose le_rfl (by omega) hpast

/-! ## The activation law under `EDGE` -/

/-- The run of true rules has begun and every `ACT` of it came inside the window its first `ACT` opened (43_actuation.md
R182). -/
def InsideWindow (c : Config) (run : List Timestamp) : Prop :=
  ∃ t0, run.getLast? = some t0 ∧ ∀ u ∈ run, elapsed c u t0 < c.fixedDuration

/-- What the log of `ACT`s says of the actuator (43_actuation.md R180, R182). -/
structure FollowsLog (c : Config) (log : List (Bool × Timestamp)) (s : State) : Prop where
  cfg_eq : s.cfg = c
  rule_eq : s.actuator.rulePrev = true ↔ trueRun log ≠ []
  release_iff : s.actuator.release = true ↔ InsideWindow c (trueRun log)
  start_eq : s.actuator.release = true → (trueRun log).getLast? = some s.actuator.startedAt

theorem trueRun_cons_true (now : Timestamp) (log : List (Bool × Timestamp)) :
    trueRun ((true, now) :: log) = now :: trueRun log := rfl

theorem trueRun_cons_false (now : Timestamp) (log : List (Bool × Timestamp)) : trueRun ((false, now) :: log) = [] := rfl

theorem not_insideWindow_nil (c : Config) : ¬ InsideWindow c [] := by
  rintro ⟨t0, hlast, -⟩
  cases hlast

/-- A run of one `ACT` is inside its window. -/
theorem insideWindow_singleton {c : Config} (hd : 1 ≤ c.fixedDuration) (now : Timestamp) : InsideWindow c [now] :=
  ⟨now, rfl, fun u hu => by rw [List.mem_singleton.1 hu, elapsed_self]; exact hd⟩

/-- One more `ACT` on a run that began at `t0`: the run was inside the window and so is the new `ACT`. -/
theorem insideWindow_cons_iff {c : Config} {run : List Timestamp} {t0 : Timestamp} (hlast : run.getLast? = some t0)
    (now : Timestamp) : InsideWindow c (now :: run) ↔ InsideWindow c run ∧ elapsed c now t0 < c.fixedDuration := by
  have hlast' : (now :: run).getLast? = some t0 := by
    rw [List.getLast?_cons, hlast, Option.getD_some]
  simp only [InsideWindow, hlast, hlast', Option.some.injEq, exists_eq_left', List.forall_mem_cons, and_comm]

section Law
variable {c : Config} {log : List (Bool × Timestamp)} {s t : State}

theorem followsLog_nil (hcfg : s.cfg = c) (h : s.actuator = ActuatorState.reset) : FollowsLog c [] s := by
  refine ⟨hcfg, ?_, ?_, ?_⟩
  · simp [h, trueRun]
  · simpa [h, trueRun] using not_insideWindow_nil c
  · simp [h]

/-- `ACT` with the rule false ends the run and turns the output off (43_actuation.md R175). -/
theorem FollowsLog.act_of_rule_false (hs : FollowsLog c log s) {now : Timestamp} {btnN : Bool}
    (h : exec (.act now btnN) s = .next t) (hrule : activationRule s.vehicle = false) :
    FollowsLog c ((false, now) :: log) t := by
  obtain ⟨hactuator, -, -⟩ := act_parts h
  have hoff : t.actuator.release = false := by
    rw [hactuator]
    exact releaseAfter_of_rule_false hrule s.actuator now
  have hprev : t.actuator.rulePrev = false := by
    rw [hactuator]
    exact hrule
  refine ⟨(exec_cfg_eq h).trans hs.cfg_eq, ?_, ?_, ?_⟩
  · simp [hprev, trueRun_cons_false]
  · simpa [hoff, trueRun_cons_false] using not_insideWindow_nil c
  · simp [hoff]

/-- `ACT` with the rule true on an active output: the run goes on, and the window decides (43_actuation.md R176, R177). -/
theorem FollowsLog.act_of_active (hs : FollowsLog c log s) {now : Timestamp} {btnN : Bool}
    (h : exec (.act now btnN) s = .next t) (hrule : activationRule s.vehicle = true) (hon : s.actuator.release = true) :
    FollowsLog c ((true, now) :: log) t := by
  obtain ⟨hactuator, -, -⟩ := act_parts h
  have hlast := hs.start_eq hon
  have hrelease : t.actuator.release = true ↔ elapsed c now s.actuator.startedAt < c.fixedDuration := by
    rw [hactuator, actuatorAfter_release, releaseAfter_of_active _ _ _ now hon, hrule, Bool.true_and, Bool.not_eq_true',
      windowOver_eq_false_iff, hs.cfg_eq]
  have hstart : t.actuator.startedAt = s.actuator.startedAt := by
    rw [hactuator]
    exact startedAtAfter_of_active _ _ _ now hon
  refine ⟨(exec_cfg_eq h).trans hs.cfg_eq, ?_, ?_, fun _ => ?_⟩
  · simp [hactuator, hrule, trueRun_cons_true]
  · rw [trueRun_cons_true, insideWindow_cons_iff hlast, hrelease]
    exact (and_iff_right (hs.release_iff.1 hon)).symm
  · rw [trueRun_cons_true, List.getLast?_cons, hlast, hstart, Option.getD_some]

/-- `ACT` with the rule true on an inactive output, under `EDGE`: a new run opens its window, and a run that has left its
window stays out of it (43_actuation.md R174, R183). -/
theorem FollowsLog.act_of_inactive (hs : FollowsLog c log s) (hd : 1 ≤ c.fixedDuration) (hpolicy : c.rearmPolicy = .edge)
    {now : Timestamp} {btnN : Bool} (h : exec (.act now btnN) s = .next t) (hrule : activationRule s.vehicle = true)
    (hoff : s.actuator.release = false) : FollowsLog c ((true, now) :: log) t := by
  obtain ⟨hactuator, -, -⟩ := act_parts h
  obtain ⟨rfl, hprevIff, hwindowIff, -⟩ := hs
  have hrelease : t.actuator.release = !s.actuator.rulePrev := by
    rw [hactuator, actuatorAfter_release, releaseAfter_of_inactive _ _ _ now hd hoff]
    simp [risingEdge, hpolicy, hrule]
  have hprevAfter : t.actuator.rulePrev = true ↔ trueRun ((true, now) :: log) ≠ [] := by
    simp [hactuator, hrule, trueRun_cons_true]
  rw [hoff] at hwindowIff
  rcases hrun : trueRun log with _ | ⟨u, run⟩ <;> rw [hrun] at hprevIff hwindowIff
  · have hprev : s.actuator.rulePrev = false := by simpa using hprevIff
    have hstart : t.actuator.startedAt = now := by
      simp [hactuator, startedAtAfter, activates, risingEdge, hpolicy, hrule, hprev, hoff]
    refine ⟨exec_cfg_eq h, hprevAfter, ?_, fun _ => ?_⟩
    · simpa [hrelease, hprev, trueRun_cons_true, hrun] using insideWindow_singleton hd now
    · rw [trueRun_cons_true, hrun, hstart]
      rfl
  · have hprev : s.actuator.rulePrev = true := by simpa using hprevIff
    obtain ⟨t0, hlast⟩ : ∃ t0, (u :: run).getLast? = some t0 := ⟨_, List.getLast?_eq_some_getLast (List.cons_ne_nil u run)⟩
    have hout : ¬ InsideWindow s.cfg (u :: run) := by simpa using hwindowIff
    refine ⟨exec_cfg_eq h, hprevAfter, ?_, ?_⟩
    · rw [trueRun_cons_true, hrun, insideWindow_cons_iff hlast]
      simp [hrelease, hprev, hout]
    · simp [hrelease, hprev]

/-- Every instruction under `EDGE` moves the actuator as it moves the log. -/
theorem FollowsLog.of_exec (hs : FollowsLog c log s) (hd : 1 ≤ c.fixedDuration) (hpolicy : c.rearmPolicy = .edge) {i : Instr}
    (h : exec i s = .next t) : FollowsLog c (logAfter log i s) t := by
  cases hi : isReset i with
  | true =>
    obtain rfl := isReset_eq_true_iff.1 hi
    refine followsLog_nil ((exec_cfg_eq h).trans hs.cfg_eq) ?_
    cases h
    rfl
  | false =>
    cases hact : actNow i with
    | none =>
      rw [logAfter_of_not_act hact hi, exec_eq_withVehicleAndResult h hact hi]
      exact ⟨hs.cfg_eq, hs.rule_eq, hs.release_iff, hs.start_eq⟩
    | some now =>
      obtain ⟨btnN, rfl⟩ := eq_act_of_actNow hact
      rw [logAfter_act]
      cases hrule : activationRule s.vehicle with
      | false => exact hs.act_of_rule_false h hrule
      | true =>
        cases hrel : s.actuator.release with
        | true => exact hs.act_of_active h hrule hrel
        | false => exact hs.act_of_inactive hd hpolicy h hrule hrel

/-- After any run under `EDGE` the log of its `ACT`s says what the actuator holds. -/
theorem FollowsLog.of_execAll (hs : FollowsLog c log s) (hd : 1 ≤ c.fixedDuration) (hpolicy : c.rearmPolicy = .edge)
    {is : List Instr} (h : execAll is s = .next t) : FollowsLog c (actLog log is s) t := by
  induction is generalizing log s with
  | nil =>
    cases h
    exact hs
  | cons i is ih =>
    obtain ⟨u, hu, hrest⟩ := execAll_cons_eq_next h
    rw [actLog_cons hu]
    exact ih (hs.of_exec hd hpolicy hu) hrest

end Law

/-- Settles O44: at power-up the log is empty and the output off, and every instruction keeps the two in step. -/
theorem activationLawUnderEdge : Obligations.ActivationLawUnderEdge := by
  intro c is t hadm hpolicy h
  obtain ⟨-, -, ⟨hd, -⟩, -⟩ := (admissible_iff c).1 hadm
  have hfollows := (followsLog_nil (State.powerUp_cfg c) (State.powerUp_actuator c)).of_execAll hd hpolicy h
  exact ⟨hfollows.release_iff, hfollows.start_eq⟩

end Sys2Proof.Machine

/-! PROOFS. The family 'other', the state invariant: it holds at power-up and every step keeps it (10_state.md,
90_conflicts.md C11). -/

namespace Sys2Proof.Machine

/-! ## One signal -/

theorem SignalRegs.inv_reset (c : Config) (w : Nat) : (SignalRegs.reset w).Inv c :=
  ⟨rfl, nofun, timeFits_zero c, fun _ => rfl⟩

theorem SignalRegs.inv_accept {c : Config} {w : Nat} {ts : Timestamp} (hts : timeFits c ts = true) (r : SignalRegs w)
    (v : BitVec w) : (r.accept v ts).Inv c :=
  ⟨rfl, fun _ => rfl, hts, nofun⟩

/-- The time of every update that `upd` picks out of a well-formed instruction fits `W` bits. -/
def UpdatesFit {w : Nat} (upd : Instr → Option (BitVec w × Timestamp)) : Prop :=
  ∀ (c : Config) (i : Instr) (v : BitVec w) (ts : Timestamp), i.wellFormed c = true → upd i = some (v, ts) →
    timeFits c ts = true

theorem time_of_ite_eq_some {p : Prop} [Decidable p] {w : Nat} {v v' : BitVec w} {ts ts' : Timestamp}
    (h : (if p then some (v', ts') else none) = some (v, ts)) : ts = ts' := by
  simp only [Option.ite_none_right_eq_some, Option.some.injEq, Prod.mk.injEq] at h
  obtain ⟨-, -, rfl⟩ := h
  rfl

theorem lampUpdate_fits : UpdatesFit lampUpdate := by
  intro c i v ts hwf h
  cases i with
  | frameLamp => exact time_of_ite_eq_some h ▸ hwf
  | _ => cases h

theorem lockUpdate_fits : UpdatesFit lockUpdate := by
  intro c i v ts hwf h
  cases i with
  | frameLock => exact time_of_ite_eq_some h ▸ hwf
  | _ => cases h

theorem parkUpdate_fits : UpdatesFit parkUpdate := by
  intro c i v ts hwf h
  cases i with
  | framePark => exact time_of_ite_eq_some h ▸ hwf
  | _ => cases h

theorem battUpdate_fits : UpdatesFit battUpdate := by
  intro c i v ts hwf h
  cases i with
  | frameBatt => exact time_of_ite_eq_some h ▸ hwf
  | _ => cases h

section Signal
variable {w : Nat} {regs : VehicleState → SignalRegs w} {upd : Instr → Option (BitVec w × Timestamp)} {i : Instr}
  {s t : State}

theorem StoresUpdates.keeps_inv (hupd : StoresUpdates regs upd) (hfit : UpdatesFit upd) (h : exec i s = .next t)
    (hi : isReset i = false) (hwf : i.wellFormed s.cfg = true) (hs : (regs s.vehicle).Inv s.cfg) :
    (regs t.vehicle).Inv t.cfg := by
  rw [exec_cfg_eq h, hupd i s t h hi]
  cases hu : upd i with
  | none => exact hs
  | some u => exact SignalRegs.inv_accept (hfit s.cfg i u.1 u.2 hwf hu) _ _

/-- A derived boolean, given by `flag`, that is written with its own signal's update stays its predicate of the current
value (42_aggregator.md R141 to R143). -/
theorem StoresUpdates.keeps_derived (hupd : StoresUpdates regs upd) {p : Nat → Bool} {flag : VehicleState → Bool}
    (h : exec i s = .next t) (hi : isReset i = false)
    (hflag : flag t.vehicle = (upd i).elim (flag s.vehicle) fun u => p u.1.toNat)
    (hs : flag s.vehicle = derivedOf p (regs s.vehicle).cur) : flag t.vehicle = derivedOf p (regs t.vehicle).cur := by
  rw [hupd i s t h hi, hflag]
  cases upd i with
  | none => exact hs
  | some u => rfl

end Signal

/-! ## The whole state -/

theorem inv_of_reset {s : State} (hv : s.vehicle = VehicleState.reset) (ha : s.actuator = ActuatorState.reset) : s.Inv := by
  obtain ⟨cfg, vehicle, actuator, result, events, inbox⟩ := s
  cases hv
  cases ha
  exact ⟨SignalRegs.inv_reset cfg 2, SignalRegs.inv_reset cfg 2, SignalRegs.inv_reset cfg 4, SignalRegs.inv_reset cfg 7,
    rfl, rfl, rfl, timeFits_zero cfg, nofun⟩

/-- `started_at` keeps fitting `W` bits: only an `ACT` writes it, with its own `NOW`. -/
theorem exec_keeps_startedAt_fits {i : Instr} {s t : State} (h : exec i s = .next t) (hi : isReset i = false)
    (hwf : i.wellFormed s.cfg = true) (hs : timeFits s.cfg s.actuator.startedAt = true) :
    timeFits t.cfg t.actuator.startedAt = true := by
  rw [exec_cfg_eq h]
  cases hact : actNow i with
  | none => rwa [exec_eq_withVehicleAndResult h hact hi]
  | some now =>
    obtain ⟨btnN, rfl⟩ := eq_act_of_actNow hact
    obtain ⟨hactuator, -, -⟩ := act_parts h
    rw [hactuator, actuatorAfter_startedAt, startedAtAfter]
    cases activates s.cfg s.vehicle s.actuator with
    | true => exact hwf
    | false => exact hs

/-- Under `EDGE` an active output keeps meaning that the rule was true at the last `ACT` (43_actuation.md R180). -/
theorem exec_keeps_release_needs_rule {i : Instr} {s t : State} (h : exec i s = .next t) (hi : isReset i = false)
    (hs : s.cfg.rearmPolicy = .edge → s.actuator.release = true → s.actuator.rulePrev = true) :
    t.cfg.rearmPolicy = .edge → t.actuator.release = true → t.actuator.rulePrev = true := by
  rw [exec_cfg_eq h]
  cases hact : actNow i with
  | none => rwa [exec_eq_withVehicleAndResult h hact hi]
  | some now =>
    obtain ⟨btnN, rfl⟩ := eq_act_of_actNow hact
    obtain ⟨hactuator, -, -⟩ := act_parts h
    rw [hactuator]
    exact fun _ hon => activationRule_of_releaseAfterRule (releaseAfter_eq_true_iff.1 hon).1

/-- Every well-formed instruction keeps the invariant. -/
theorem exec_keeps_inv {i : Instr} {s t : State} (hwf : i.wellFormed s.cfg = true) (h : exec i s = .next t) (hs : s.Inv) :
    t.Inv := by
  cases hi : isReset i with
  | true =>
    obtain rfl := isReset_eq_true_iff.1 hi
    cases h
    exact inv_of_reset rfl rfl
  | false =>
    have hvehicle := exec_vehicle_eq_afterUpdate h hi
    refine
      { lamp_inv := lamp_storesUpdates.keeps_inv lampUpdate_fits h hi hwf hs.lamp_inv
        lock_inv := lock_storesUpdates.keeps_inv lockUpdate_fits h hi hwf hs.lock_inv
        park_inv := park_storesUpdates.keeps_inv parkUpdate_fits h hi hwf hs.park_inv
        batt_inv := batt_storesUpdates.keeps_inv battUpdate_fits h hi hwf hs.batt_inv
        bedlight_on_derived := lamp_storesUpdates.keeps_derived (flag := (·.bedlightOn)) h hi ?_ hs.bedlight_on_derived
        is_unlocked_derived := lock_storesUpdates.keeps_derived (flag := (·.isUnlocked)) h hi ?_ hs.is_unlocked_derived
        is_parked_derived := park_storesUpdates.keeps_derived (flag := (·.isParked)) h hi ?_ hs.is_parked_derived
        started_at_fits := exec_keeps_startedAt_fits h hi hwf hs.started_at_fits
        release_needs_rule := exec_keeps_release_needs_rule h hi hs.release_needs_rule }
    all_goals rw [hvehicle, VehicleState.afterUpdate]

/-- The invariant does not speak of the inbox. -/
theorem State.Inv.withInbox {s : State} (hs : s.Inv) (ts : List Transaction) : State.Inv { s with inbox := ts } :=
  ⟨hs.lamp_inv, hs.lock_inv, hs.park_inv, hs.batt_inv, hs.bedlight_on_derived, hs.is_unlocked_derived,
    hs.is_parked_derived, hs.started_at_fits, hs.release_needs_rule⟩

/-- Settles O49: power-up holds the reset records. -/
theorem invariantHoldsAtPowerUp : Obligations.InvariantHoldsAtPowerUp :=
  ⟨inv_of_reset rfl rfl, fun _ => inv_of_reset rfl rfl⟩

/-- Settles O50: a step idles or performs a decoded instruction, which is well formed. -/
theorem everyStepKeepsTheInvariant : Obligations.EveryStepKeepsTheInvariant := by
  intro s t hs h
  rcases step_eq_next_cases h with rfl | ⟨u, rest, i, -, hdec, hexec⟩
  · exact hs
  · exact exec_keeps_inv (s := { s with inbox := rest }) (wellFormed_of_decode hdec) hexec (hs.withInbox rest)

end Sys2Proof.Machine

/-! PROOFS. The family 'other', observability: the layout of the status registers (44_observability.md section 2). -/

namespace Sys2Proof.Machine

/-- The register map by address (44_observability.md R191 to R194). -/
theorem statusReg_eq (s : State) (addr : BitVec 8) :
    statusReg s addr =
      if addr = 0x00#8 then statusFlags s
      else if addr = 0x01#8 then signalWord s.vehicle.lamp else if addr = 0x02#8 then signalWord s.vehicle.lock
      else if addr = 0x03#8 then signalWord s.vehicle.park else if addr = 0x04#8 then signalWord s.vehicle.batt
      else if addr = 0x05#8 then s.vehicle.lamp.last else if addr = 0x06#8 then s.vehicle.lock.last
      else if addr = 0x07#8 then s.vehicle.park.last else if addr = 0x08#8 then s.vehicle.batt.last
      else if addr = 0x09#8 then s.actuator.startedAt else 0 := by
  unfold statusReg
  simp only [← BitVec.toNat_inj (x := addr), BitVec.toNat_ofNat]
  split
  case h_11 h0 h1 h2 h3 h4 h5 h6 h7 h8 h9 =>
    rw [if_neg h0, if_neg h1, if_neg h2, if_neg h3, if_neg h4, if_neg h5, if_neg h6, if_neg h7, if_neg h8, if_neg h9]
  all_goals simp [*]

/-- Settles O60: from address 5 up the map is the five time registers and 0. -/
theorem timeRegistersAndReservedAddresses : Obligations.TimeRegistersAndReservedAddresses := by
  intro s addr h
  have hne : ∀ k : Nat, k < 5 → addr ≠ BitVec.ofNat 8 k := by
    rintro k hk rfl
    rw [BitVec.toNat_ofNat] at h
    omega
  rw [exec_read, statusReg_eq, if_neg (hne 0 (by decide)), if_neg (hne 1 (by decide)), if_neg (hne 2 (by decide)),
    if_neg (hne 3 (by decide)), if_neg (hne 4 (by decide))]
  rfl

/-! ## STATUS -/

theorem flagBit_getLsbD_of_ne (b : Bool) {i j : Nat} (h : j ≠ i) : (flagBit b i).getLsbD j = false := by
  simp [flagBit_getLsbD, h]

/-- Settles O58: each flag has its own bit, and no flag has a bit from 12 up. -/
theorem statusRegisterLayout : Obligations.StatusRegisterLayout := by
  intro s
  have hread : statusReg s 0x00#8 = statusFlags s := rfl
  refine ⟨_, exec_read 0x00#8 s, rfl, ?_⟩
  simp only [State.withResult_result, hread, statusFlags]
  refine ⟨?_, ?_, ?_, ?_, ?_, ?_, ?_, ?_, ?_, ?_, ?_, ?_, fun j hj => ?above⟩
  case above =>
    simp (disch := omega) only [orFields_getLsbD_cons, orFields_getLsbD_nil, flagBit_getLsbD_of_ne, Bool.or_false]
  all_goals
    simp only [orFields_getLsbD_cons, orFields_getLsbD_nil, flagBit_getLsbD]
    simp

/-! ## The signal registers -/

/-- Fields that do not overlap add up. -/
theorem or_eq_add_of_lt {x k : Nat} (h : x < 2 ^ k) (n : Nat) : x ||| 2 ^ k * n = x + 2 ^ k * n := by
  rw [Nat.or_comm, ← Nat.two_pow_add_eq_or_of_lt h, Nat.add_comm]

theorem flagBit_toNat (b : Bool) {i : Nat} (hi : i < 64) : (flagBit b i).toNat = b.toNat * 2 ^ i := by
  have hpow : 2 ^ i < 2 ^ 64 := Nat.pow_lt_pow_right (by decide) hi
  have hflag : ((BitVec.ofBool b).setWidth 64).toNat = b.toNat := by cases b <;> rfl
  have hle : b.toNat * 2 ^ i ≤ 1 * 2 ^ i := Nat.mul_le_mul_right _ (Bool.toNat_le b)
  rw [flagBit, BitVec.toNat_shiftLeft, Nat.shiftLeft_eq, hflag, Nat.mod_eq_of_lt (by omega)]

theorem codeField_toNat {w : Nat} (hw : w ≤ 7) (v : Option (BitVec w)) :
    (codeField v).toNat = (v.map (·.toNat)).getD 0 ∧ (codeField v).toNat < 2 ^ 7 := by
  cases v with
  | none => exact ⟨rfl, Nat.two_pow_pos 7⟩
  | some x =>
    have hx : x.toNat < 2 ^ 7 := x.isLt.trans_le (Nat.pow_le_pow_right (by decide) hw)
    have hcode : (codeField (some x)).toNat = x.toNat := by
      simp only [codeField, BitVec.toNat_setWidth]
      omega
    exact ⟨hcode, hcode ▸ hx⟩

/-- A signal register as a number (44_observability.md R192). -/
theorem signalWord_toNat {w : Nat} (hw : w ≤ 7) (r : SignalRegs w) :
    (signalWord r).toNat = (r.cur.map (·.toNat)).getD 0 + r.cur.isSome.toNat * 2 ^ 7
      + (r.prev.map (·.toNat)).getD 0 * 2 ^ 8 + r.prev.isSome.toNat * 2 ^ 15 := by
  obtain ⟨hcur, hcurLt⟩ := codeField_toNat hw r.cur
  obtain ⟨hprev, hprevLt⟩ := codeField_toNat hw r.prev
  have hprevShift : (codeField r.prev <<< 8).toNat = (codeField r.prev).toNat * 2 ^ 8 := by
    rw [BitVec.toNat_shiftLeft, Nat.shiftLeft_eq]
    omega
  have hflag := Bool.toNat_le r.cur.isSome
  have hfields : signalWord r =
      codeField r.cur ||| (flagBit r.cur.isSome 7 ||| (codeField r.prev <<< 8 ||| flagBit r.prev.isSome 15)) := by
    simp [signalWord, orFields]
  rw [hfields, BitVec.toNat_or, BitVec.toNat_or, BitVec.toNat_or, hprevShift, flagBit_toNat _ (by decide),
    flagBit_toNat _ (by decide)]
  rw [← hcur, ← hprev]
  generalize (codeField r.cur).toNat = cur at *
  generalize (codeField r.prev).toNat = prev at *
  generalize r.cur.isSome.toNat = curValid at *
  generalize r.prev.isSome.toNat = prevValid
  have htop : prev * 2 ^ 8 ||| prevValid * 2 ^ 15 = 2 ^ 8 * (prev + 2 ^ 7 * prevValid) := by
    rw [Nat.mul_comm prevValid, or_eq_add_of_lt (by omega)]
    ring
  have hmid : curValid * 2 ^ 7 ||| 2 ^ 8 * (prev + 2 ^ 7 * prevValid)
      = 2 ^ 7 * (curValid + 2 * (prev + 2 ^ 7 * prevValid)) := by
    rw [or_eq_add_of_lt (by omega)]
    ring
  rw [htop, hmid, or_eq_add_of_lt hcurLt]
  ring

/-- Settles O59: the four addresses hold the four signals' registers. -/
theorem signalRegisterLayout : Obligations.SignalRegisterLayout := by
  intro s cur prev addr h
  refine ⟨_, exec_read addr s, rfl, ?_⟩
  rcases h with ⟨rfl, rfl, rfl⟩ | ⟨rfl, rfl, rfl⟩ | ⟨rfl, rfl, rfl⟩ | ⟨rfl, rfl, rfl⟩ <;>
    simp only [Option.isSome_map]
  · exact signalWord_toNat (by decide) s.vehicle.lamp
  · exact signalWord_toNat (by decide) s.vehicle.lock
  · exact signalWord_toNat (by decide) s.vehicle.park
  · exact signalWord_toNat (by decide) s.vehicle.batt

end Sys2Proof.Machine

/-! PROOFS. The family 'other', the battery: its value reaches one register only, while a fresh battery frame makes the
block ready (30_encoding.md R77, 70_reset_and_hazards.md R238). -/

namespace Sys2Proof.Machine

/-! ## The battery value -/

/-- The state with other values in the battery signal. -/
def State.withBattValue (s : State) (cur prev : Option (BitVec 7)) : State :=
  { s with vehicle := { s.vehicle with batt := { s.vehicle.batt with cur := cur, prev := prev } } }

/-- The register map reads the battery value at `0x04` only (44_observability.md R192). -/
theorem statusReg_withBattValue {addr : BitVec 8} (h : addr ≠ 0x04#8) (s : State) (cur prev : Option (BitVec 7)) :
    statusReg (s.withBattValue cur prev) addr = statusReg s addr := by
  rw [statusReg_eq, statusReg_eq, if_neg h, if_neg h]
  rfl

/-- Every instruction from two states that differ in the battery value only. -/
theorem exec_withBattValue (i : Instr) (s : State) (cur prev : Option (BitVec 7)) :
    ∃ s' t', exec i s = .next s' ∧ exec i (s.withBattValue cur prev) = .next t' ∧ sameButBattValue s' t'
      ∧ (i ≠ .read 0x04#8 → s'.result = t'.result) := by
  cases i with
  | frameLamp len data ts | frameLock len data ts | framePark len data ts | frameBatt len data ts =>
    simp only [exec_frameLamp, exec_frameLock, exec_framePark, exec_frameBatt]
    refine ⟨_, _, rfl, rfl, ?_, fun _ => rfl⟩
    by_cases hlen : len.val = 8 <;> simp only [hlen, if_true, if_false] <;> rfl
  | frameOther id len data ts =>
    exact ⟨_, _, exec_frameOther id len data ts s, exec_frameOther id len data ts _, rfl, fun _ => rfl⟩
  | ready now => exact ⟨_, _, exec_ready now s, exec_ready now _, rfl, fun _ => rfl⟩
  | act now btnN => exact ⟨_, _, exec_act now btnN s, exec_act now btnN _, rfl, fun _ => rfl⟩
  | extract data msb wid => exact ⟨_, _, exec_extract data msb wid s, exec_extract data msb wid _, rfl, fun _ => rfl⟩
  | set data msb wid val =>
    exact ⟨_, _, exec_set data msb wid val s, exec_set data msb wid val _, rfl, fun _ => rfl⟩
  | read addr =>
    refine ⟨_, _, exec_read addr s, exec_read addr _, rfl, fun hne => ?_⟩
    exact (statusReg_withBattValue (fun h => hne (congrArg Instr.read h)) s cur prev).symm
  | reset => exact ⟨_, _, exec_reset s, exec_reset _, rfl, fun _ => rfl⟩

/-- Settles O47: no instruction reads the `RESULT` it finds, so the two states may be taken to differ in the battery value
only. -/
theorem batteryValueNeverMatters : Obligations.BatteryValueNeverMatters := by
  intro i s t hsame
  obtain ⟨s', t', hs, ht, hsame', hresult⟩ := exec_withBattValue i s t.vehicle.batt.cur t.vehicle.batt.prev
  refine ⟨s', t', hs, ?_, hsame', hresult⟩
  rw [hsame]
  exact (exec_withResult i (s.withBattValue t.vehicle.batt.cur t.vehicle.batt.prev) t.result).trans ht

/-! ## Readiness is an OR -/

/-- An accepted battery frame leaves its signal seen at its time, and only the battery's registers and `RESULT` change
(41_frame_parsers.md R130). -/
theorem exec_acceptedBatt (s : State) (data : Payload) (now : Timestamp) :
    ∃ u, exec (.frameBatt 8 data now) s = .next u ∧ u.cfg = s.cfg ∧ u.actuator = s.actuator
      ∧ (true, now) ∈ u.vehicle.seenAndLast ∧ u.vehicle = { s.vehicle with batt := u.vehicle.batt } :=
  ⟨_, exec_frameBatt 8 data now s, rfl, rfl, by simp [VehicleState.seenAndLast], rfl⟩

/-- `READY` at the time of a signal's update sets `system_ready`, and only that and `RESULT` change. -/
theorem exec_ready_of_seen_now {u : State} {now : Timestamp} (h : admissible u.cfg = true)
    (hmem : (true, now) ∈ u.vehicle.seenAndLast) :
    ∃ r, exec (.ready now) u = .next r ∧ r.cfg = u.cfg ∧ r.actuator = u.actuator
      ∧ r.vehicle = { u.vehicle with systemReady := true } :=
  ⟨_, exec_ready now u, rfl, rfl, by rw [anyFresh_of_seen_now h hmem]⟩

/-- Settles O48: the battery frame makes its signal fresh, `READY` finds the block ready, and the rule has an edge. -/
theorem staleParkAndLockStillActivate : Obligations.StaleParkAndLockStillActivate := by
  intro s data now btnN hadm hparked hunlocked hoff hprev
  obtain ⟨-, -, ⟨hd, -⟩, -⟩ := (admissible_iff s.cfg).1 hadm
  obtain ⟨u, hframe, hcfgU, hactuatorU, hseen, hvehicleU⟩ := exec_acceptedBatt s data now
  obtain ⟨r, hready, hcfgR, hactuatorR, hvehicleR⟩ := exec_ready_of_seen_now (hcfgU ▸ hadm) hseen
  rw [hvehicleU] at hvehicleR
  rw [hcfgU] at hcfgR
  rw [hactuatorU] at hactuatorR
  have hrule : activationRule r.vehicle = true :=
    activationRule_eq_true_iff.2 (by rw [hvehicleR]; exact ⟨rfl, hparked, hunlocked⟩)
  have hedge : risingEdge r.cfg r.actuator (activationRule r.vehicle) = true := by
    cases hpolicy : r.cfg.rearmPolicy <;> simp [risingEdge, hpolicy, hrule, hactuatorR, hoff, hprev]
  obtain ⟨t, hact, hon, hstart, -⟩ :=
    act_of_risingEdge now btnN (hcfgR ▸ hd) (hactuatorR ▸ hoff) hedge
  obtain ⟨-, -, hvehicle⟩ := act_parts hact
  refine ⟨t, ?run, hon, hstart, ?park, ?lock⟩
  case run => rw [execAll_cons_of_next hframe, execAll_cons_of_next hready, execAll_cons_of_next hact, execAll]
  case park => rw [hvehicle, hvehicleR]
  case lock => rw [hvehicle, hvehicleR]

end Sys2Proof.Machine
